-- ==== Sys2Proof/Word.lean ====
section
/-! DEFINITION. The word types of the request and response ports and of the device's registers
(`00_scope.md` R10, R14). Bit 0 is the least significant bit (R13), which is `BitVec`'s own numbering. -/

namespace Sys2Proof

/-- `u8` of R14: the content of one device register, a register address (R11, `REG_ADDR_WIDTH` = 8), an operand. -/
abbrev Byte := BitVec 8

/-- `u16` of R14: the datum of a response (R82). -/
abbrev Half := BitVec 16

/-- The 32-bit request word `REQ` of R80. -/
abbrev Request := BitVec 32

end Sys2Proof
end

