-- ==== Sys2Proof/Config.lean ====
section
/-! DEFINITION. What an implementation fixes (the open parameters of `00_scope.md` R11 under the constraints of R12) and
the free values of the model: what the bus transport and the other agents do (`20_memory.md` R53, R68 to R71). -/

namespace Sys2Proof

/-- The open parameters of R11, the handle that R203 says must be bound. `N_INSTANCES` is one more than the length of
`State.others`, and `Dev0` is the content of `State.dev` in the state a run starts from; both need no field here. -/
structure Params where
  /-- `DEV_ADDR`, passed to every bus call (R50). -/
  devAddr : BitVec 7
  /-- `ADDR_CTRL1`. -/
  ctrl1 : Byte
  /-- `ADDR_CTRL2`. -/
  ctrl2 : Byte
  /-- `ADDR_INTCFG`. -/
  intCfg : Byte
  /-- `ADDR_X_L`, the low byte of the X pair; the high byte is at the next address (R30). -/
  xL : Byte
  /-- `ADDR_Y_L`. -/
  yL : Byte
  /-- `ADDR_Z_L`. -/
  zL : Byte
  /-- `CLOSED_SYSTEM`: RBFC is the only agent that writes the device's control registers. -/
  closed : Bool
  deriving DecidableEq, Repr, Inhabited

/-- The three control registers' addresses. -/
def Params.controlAddrs (p : Params) : List Byte := [p.ctrl1, p.ctrl2, p.intCfg]

/-- The six axis data registers' addresses (R30). -/
def Params.axisAddrs (p : Params) : List Byte := [p.xL, p.xL + 1, p.yL, p.yL + 1, p.zL, p.zL + 1]

/-- R12: nine pairwise different addresses, and no high byte's address wraps. -/
abbrev Params.ok (p : Params) : Prop :=
  (p.controlAddrs ++ p.axisAddrs).Nodup ∧ p.xL ≤ 0xFE ∧ p.yL ≤ 0xFE ∧ p.zL ≤ 0xFE

/-- The outcome the transport draws for one bus call (R53, R70). -/
structure Transport where
  /-- the call succeeds; otherwise it returns `BusFailure` -/
  ok : Bool
  /-- for a write that fails: the device holds the attempted byte afterwards, not the old one
  (`WRITE_FAIL_EFFECT` = `either`) -/
  landed : Bool
  deriving DecidableEq, Repr, Inhabited

/-- What an agent other than the instance under study may do between two of its bus transactions (R9, R68, R69). -/
inductive Action where
  /-- The device changes one of its axis data registers by itself as it measures (R9, R69, R71). -/
  | measure (a b : Byte)
  /-- Another bus master writes byte `b` to register address `a` (R68). -/
  | write (a b : Byte)
  /-- RBFC instance number `k` of `State.others` goes through its next phase (R212); `t` is drawn for its bus call. -/
  | turn (k : Nat) (t : Transport)
  deriving DecidableEq, Repr, Inhabited

/-- Everything that is drawn for one bus call of the instance under study: what the other agents do before it, and
the transport's outcome. -/
structure Draw where
  before : List Action
  transport : Transport
  deriving DecidableEq, Repr, Inhabited

/-- FREE VALUE (assumption 2). The draw number `n`, where `State.draws` names none. It has no body: nothing can be
proved of it. -/
opaque Config.freeDraw : Nat → Draw

/-- FREE VALUE (assumption 3). The implementation's parameter binding, before R12's constraint is put on it. -/
opaque Config.openParams : Params

/-- Some binding that meets R12, so that `Config.params` can be total. It is no part's address map; no theorem can
show that it is the one used (assumption 3). -/
def Config.someParams : Params :=
  { devAddr := 0, ctrl1 := 0, ctrl2 := 1, intCfg := 2, xL := 3, yL := 5, zL := 7, closed := false }

/-- The parameters a run from reset is bound to: any binding that meets R12, and nothing more is known of it. -/
def Config.params : Params := if Config.openParams.ok then Config.openParams else Config.someParams

end Sys2Proof
end

