-- ==== Sys2Proof/Machine/Memory.lean ====
section
/-! DEFINITION. The device's byte registers `Dev` (`10_state.md` R25): a map from the 256 register addresses of R11 to
bytes, as a list of cells in one canonical form. -/

namespace Sys2Proof.Machine

/-- `Dev` as (address, byte) cells: addresses strictly rising, no cell that holds what an unlisted address reads as. -/
abbrev Memory := List Host.Cell

/-- What an unlisted address reads as. The spec leaves the start contents `Dev0` open (R40, R202).
DESIGN CHOICE, unsafe (assumption 4). -/
def Memory.unlisted : Byte := 0

/-- The first cell at address `n`. -/
def Memory.lookup : Memory → Nat → Byte
  | [], _ => Memory.unlisted
  | (k, c) :: m, n => if k = n then c else Memory.lookup m n

/-- `Dev[a]` (R16). -/
def Memory.read (m : Memory) (a : Byte) : Byte := Memory.lookup m a.toNat

/-- `m` without any cell at address `n`. -/
def Memory.erase (m : Memory) (n : Nat) : Memory := m.filter (fun c => c.1 != n)

/-- A cell for address `n`, put before the first higher address. -/
def Memory.place : Memory → Nat → Byte → Memory
  | [], n, b => [(n, b)]
  | (k, c) :: m, n, b => if n < k then (n, b) :: (k, c) :: m else (k, c) :: Memory.place m n b

/-- `Dev[a]` becomes `b`, and nothing else changes. -/
def Memory.write (m : Memory) (a b : Byte) : Memory :=
  if b = Memory.unlisted then Memory.erase m a.toNat else Memory.place (Memory.erase m a.toNat) a.toNat b

/-- The canonical form. -/
abbrev Memory.wf (m : Memory) : Prop :=
  m.Pairwise (fun c d => c.1 < d.1) ∧ ∀ c ∈ m, c.1 < 256 ∧ c.2 ≠ Memory.unlisted

end Sys2Proof.Machine
end

