-- ==== Sys2Proof/Syntax.lean ====
section
/-! DEFINITION. The ten operations of `00_scope.md` R3, one constructor per row of `spec/opcode_table.json`, and the
source's own calls (`30_encoding.md` R90, R93). -/

namespace Sys2Proof

/-- An RBFC operation with its operands. `dv` is the destination-valid flag of R87. The operands that the source calls
"a small integer" (rate, enable, axis) are natural numbers: those up to 255 have a request word, and the larger ones are
the wider software operands of R93. -/
inductive Instr where
  /-- EXTRACT, R111 -/
  | extract (byte mask : Byte) (shift : BitVec 3)
  /-- INSERT, R113 -/
  | insert (value mask : Byte) (shift : BitVec 3)
  /-- ODRENC, R134 -/
  | odrenc (rate : Nat)
  /-- ODRDEC, R136 -/
  | odrdec (byte : Byte)
  /-- ASM16, R162 -/
  | asm16 (lowByte highByte : Byte)
  /-- GETFS, R120 -/
  | getfs (dv : Bool)
  /-- SETODR, R137 -/
  | setodr (rate : Nat)
  /-- GETODR, R138 -/
  | getodr (dv : Bool)
  /-- INTPIN, R150 -/
  | intpin (enable : Nat)
  /-- RDAXIS, R163 -/
  | rdaxis (dv : Bool) (axis : Nat)
  deriving DecidableEq, Repr

/-- The calls the source writes (R90, R83 column "source name"). `dest` is true when the caller gives a destination. -/
inductive SourceCall where
  | extract (byte mask : Byte) (shift : BitVec 3)
  | insert (value mask : Byte) (shift : BitVec 3)
  | encode (rate : Nat)
  | decode (byte : Byte)
  | assemble (lowByte highByte : Byte)
  | getFullScaleConfig (dest : Bool)
  | setOutputDataRate (rate : Nat)
  | getOutputDataRate (dest : Bool)
  | enableDisableIntPin (enable : Nat)
  | readAxisData (axis : Nat) (dest : Bool)
  deriving DecidableEq, Repr

end Sys2Proof
end

