-- ==== Sys2Proof/Machine/State.lean ====
section
/-! DEFINITION. The state of the whole system of `00_scope.md` R9: the device's registers, the instance of RBFC whose
operations the model's steps are, the other instances, and the inputs that the requesters, the transport and the other
agents still have to give. RBFC itself holds nothing between operations (`10_state.md` R20 to R24). -/

namespace Sys2Proof.Machine

/-- Every cause of DeviceError (`60_exceptions.md` R171). -/
inductive DeviceCause where
  | nullDestination
  | invalidEnable
  | unknownAxis
  | undefinedRate
  | implausibleValue
  | reservedEncoding
  deriving DecidableEq, Repr

/-- Every cause of BusError (R172). -/
inductive BusCause where
  | readFailed
  | writeFailed
  deriving DecidableEq, Repr

/-- How an operation ends (`00_scope.md` R17). There is a datum only on Ok (`30_encoding.md` R82); the cause tells the
reasons apart and is not visible on the response port. -/
inductive Response where
  | ok (data : Option Half)
  | deviceError (cause : DeviceCause)
  | busError (cause : BusCause)
  deriving DecidableEq, Repr

/-- Who issues a bus call: the instance under study, the other RBFC instance number `k`, or a bus master that is no
RBFC (R9, `20_memory.md` R68). -/
inductive Master where
  | self
  | other (k : Nat)
  | software
  deriving DecidableEq, Repr

/-- A bus call and its result (`20_memory.md` R51, R52); a read's result is `none` when the transport returns
`BusFailure`. -/
inductive BusCall where
  | read (a : Byte) (count : Nat) (result : Option (List Byte))
  | write (a : Byte) (bytes : List Byte) (success : Bool)
  deriving DecidableEq, Repr

/-- One bus transaction: who, at which device address, which call. -/
structure Txn where
  who : Master
  devAddr : BitVec 7
  call : BusCall
  deriving DecidableEq, Repr

/-- Where another instance is in its operation (`70_reset_and_hazards.md` R212, with P0 merged into P1 and P2 into P3
and P4, as that rule allows): idle, or holding the operation and the bytes its read returned (the latches of R23). -/
inductive Phase where
  | idle
  | latched (i : Instr) (r : List Byte)
  deriving DecidableEq, Repr

/-- Another RBFC instance with its requester (`60_exceptions.md` R183): the requests still to come, where it is in its
operation, and the responses it has given. -/
structure Rival where
  requests : List Request
  phase : Phase
  responses : List Response
  deriving DecidableEq, Repr

/-- The state. Only `params` and `dev` outlive an operation by the spec (R25); `requests`, `draws` and `drawn` are the
inputs to come; `responses` and `log` are the model's record of what crossed the ports, which no rule reads
(assumptions 2, 9, 10). -/
structure State where
  /-- The bound parameters (R11, R203). No operation changes them. -/
  params : Params
  /-- The device's registers `Dev` (R25). -/
  dev : Memory
  /-- The request words the requester has still to issue, the next one first (R9, R61). -/
  requests : List Request
  /-- The responses given so far, the oldest first (R82). -/
  responses : List Response
  /-- The bus transactions so far of every master, the oldest first. -/
  log : List Txn
  /-- The other RBFC instances on the bus; `N_INSTANCES` is one more than their number (R11). -/
  others : List Rival
  /-- The draws for the next bus calls, the next one first; beyond them `Config.freeDraw` gives the draw. -/
  draws : List Draw
  /-- How many draws have been taken: the counter `Config.freeDraw` is applied to. -/
  drawn : Nat
  deriving DecidableEq, Repr

/-- Why the machine stops with a fault: for no reason. Every failure of RBFC is an ordinary response after which it
accepts the next request (R170, R178), and every bus call returns (R213), so no step faults (assumption 15). -/
inductive Fault where
  deriving DecidableEq, Repr

/-- Why the machine has no meaning for an instruction. -/
inductive Refusal where
  /-- An instruction whose meaning is not written; raised by `exec` alone, and by no arm of it any more. Safe. -/
  | notModelled (mnemonic : String)
  deriving DecidableEq, Repr

/-- FREE VALUE (assumption 8). How many other instances there are when a run starts, and what their requesters will
ask of them, one list of request words for each: `N_INSTANCES` is open. -/
opaque otherRequests : List (List Request)

/-- The system right after reset (R200): every instance idle with no response given, no bus transaction made. The
parameters are any that meet R12 (assumption 3); the device's start contents `Dev0` are open and read as
`Memory.unlisted` here (assumption 4). -/
def State.reset : State where
  params := Config.params
  dev := []
  requests := []
  responses := []
  log := []
  others := otherRequests.map (fun rs => { requests := rs, phase := .idle, responses := [] })
  draws := []
  drawn := 0

end Sys2Proof.Machine
end

