-- ==== Sys2Proof/Machine/Operands.lean ====
section
/-! DEFINITION. The operands' value types and the field constants: `10_state.md` R31 to R38, the rate tables of
`42_output_data_rate.md` R130 to R132, the axis selectors of `44_axis_reader.md` R160. -/

namespace Sys2Proof.Machine

/-! ### Field constants (R31) -/

def fsMask : Byte := 0x60
def fsShift : BitVec 3 := 5
def drMask : Byte := 0x1C
def drShift : BitVec 3 := 2
def fastMask : Byte := 0x02
def fastShift : BitVec 3 := 1
def pmMask : Byte := 0x60
def pmShift : BitVec 3 := 5
def ienMask : Byte := 0x01
def ienShift : BitVec 3 := 0

/-! ### Full-scale range (R33) -/

inductive FullScaleRange where
  | gauss4
  | gauss8
  | gauss12
  | gauss16
  deriving DecidableEq, Repr

/-- The code that crosses the response port (R121). -/
def FullScaleRange.code : FullScaleRange → Byte
  | .gauss4 => 0
  | .gauss8 => 1
  | .gauss12 => 2
  | .gauss16 => 3

/-- The range in gauss, either side of 0. A label: no rule computes with it (R33). -/
def FullScaleRange.gauss : FullScaleRange → Nat
  | .gauss4 => 4
  | .gauss8 => 8
  | .gauss12 => 12
  | .gauss16 => 16

/-! ### Performance mode (R35) and output data rate (R34) -/

inductive PerformanceMode where
  | low
  | medium
  | high
  | ultrahigh
  deriving DecidableEq, Repr

def PerformanceMode.code : PerformanceMode → Byte
  | .low => 0
  | .medium => 1
  | .high => 2
  | .ultrahigh => 3

/-- The enumerators of the four fast rates (R11, R34). -/
def rate155 : Nat := 8
def rate300 : Nat := 9
def rate560 : Nat := 10
def rate1000 : Nat := 11

/-- R131: the normal rates, whose enumerators are their register codes. -/
def normalRate (rate : Nat) : Bool := decide (rate ≤ 7)

/-- R132, the one table of the correspondence, read in both directions. -/
def fastRates : List (PerformanceMode × Nat) :=
  [(.low, rate1000), (.medium, rate560), (.high, rate300), (.ultrahigh, rate155)]

/-- `mode_of_rate` (R132); none for a rate that is not fast. -/
def modeOfRate (rate : Nat) : Option PerformanceMode :=
  (fastRates.find? (fun row => row.2 == rate)).map (fun row => row.1)

/-- `rate_of_mode` (R132), from the mode's code; none for a code that is no mode's. -/
def rateOfMode (code : Byte) : Option Nat :=
  (fastRates.find? (fun row => row.1.code == code)).map (fun row => row.2)

/-- R131: the fast rates. -/
def fastRate (rate : Nat) : Bool := (modeOfRate rate).isSome

/-- The frequency of each enumerator in millihertz, in the order of R130. Labels: no rule computes with a frequency.
PRESUMED for the six between 0.625 Hz and 80 Hz (assumption 12). -/
def frequencyMilliHz : List Nat :=
  [625, 1250, 2500, 5000, 10000, 20000, 40000, 80000, 155000, 300000, 560000, 1000000]

/-! ### Axis selector (R37, R160) -/

/-- `AXIS_X`, `AXIS_Y`, `AXIS_Z` (R11). -/
def axisX : Nat := 0
def axisY : Nat := 1
def axisZ : Nat := 2

/-- `axis_addr` (R160); none is `Unrecognised`. -/
def axisAddr (p : Params) (axis : Nat) : Option Byte :=
  if axis = axisX then some p.xL
  else if axis = axisY then some p.yL
  else if axis = axisZ then some p.zL
  else none

/-- `zext_16` of a byte (R82). -/
def zext16 (b : Byte) : Half := b.setWidth 16

end Sys2Proof.Machine
end

