-- ==== Sys2Proof/WellFormed.lean ====
section
/-! DEFINITION. Which operations have a request word (`30_encoding.md` R93: an operand that does not fit in 8 bits has
none). The bytes and the 3-bit shift fit their fields by their types (R81, R84). -/

namespace Sys2Proof

/-- Every operand fits its 8-bit field (R81, `OPERAND_WIDTH` = 8 of R11). -/
def Instr.wellFormed : Instr → Bool
  | .extract _ _ _ => true
  | .insert _ _ _ => true
  | .odrenc rate => decide (rate ≤ 255)
  | .odrdec _ => true
  | .asm16 _ _ => true
  | .getfs _ => true
  | .setodr rate => decide (rate ≤ 255)
  | .getodr _ => true
  | .intpin enable => decide (enable ≤ 255)
  | .rdaxis _ axis => decide (axis ≤ 255)

end Sys2Proof
end

