-- ==== Sys2Proof/Decode.lean ====
section
/-! DEFINITION. The request word's fields (`30_encoding.md` R80, R81), the opcode map (R83) as a table of masks and match
values, the decoder that tries its ten rows (R85), the encoder, and the other spellings of an operation (R92, R93). -/

namespace Sys2Proof

/-! ### Fields of a request word (R80) -/

def Request.op (w : Request) : BitVec 4 := w.extractLsb' 28 4
def Request.dv (w : Request) : BitVec 1 := w.extractLsb' 27 1
def Request.rsv (w : Request) : BitVec 3 := w.extractLsb' 24 3
def Request.a (w : Request) : Byte := w.extractLsb' 16 8
def Request.b (w : Request) : Byte := w.extractLsb' 8 8
def Request.c (w : Request) : Byte := w.extractLsb' 0 8

/-- `C[2:0]`, the shift amount (R81). -/
def Request.shift (w : Request) : BitVec 3 := w.extractLsb' 0 3

/-- `DV` as the destination-valid flag (R87). -/
def Request.destination (w : Request) : Bool := w.dv == 1

/-! ### The opcode map (R83) -/

/-- One row of R83: a word `w` selects it when `w & mask` is its match value; `build` reads the operands. -/
structure Row where
  mask : Request
  value : Request
  build : Request → Instr

def Row.selects (r : Row) (w : Request) : Bool := w &&& r.mask == r.value

/-- R83, in the order of its table. -/
def opcodeMap : List Row :=
  [ ⟨0xFF0000F8, 0x00000000, fun w => .extract w.a w.b w.shift⟩,
    ⟨0xFF0000F8, 0x10000000, fun w => .insert w.a w.b w.shift⟩,
    ⟨0xFF00FFFF, 0x20000000, fun w => .odrenc w.a.toNat⟩,
    ⟨0xFF00FFFF, 0x30000000, fun w => .odrdec w.a⟩,
    ⟨0xFF0000FF, 0x40000000, fun w => .asm16 w.a w.b⟩,
    ⟨0xF7FFFFFF, 0x80000000, fun w => .getfs w.destination⟩,
    ⟨0xFF00FFFF, 0x90000000, fun w => .setodr w.a.toNat⟩,
    ⟨0xF7FFFFFF, 0xA0000000, fun w => .getodr w.destination⟩,
    ⟨0xFF00FFFF, 0xB0000000, fun w => .intpin w.a.toNat⟩,
    ⟨0xF700FFFF, 0xC0000000, fun w => .rdaxis w.destination w.a.toNat⟩ ]

/-- Why a word is a reserved encoding (R86). RBFC's answer is the same for all three. -/
inductive Reject where
  /-- `OP` is 0x5, 0x6, 0x7, 0xD, 0xE or 0xF -/
  | unusedOpcode
  /-- the opcode has a row, and `RSV` is not 0 -/
  | reservedField
  /-- the opcode has a row, and a field that the operation does not use is not 0 (R84) -/
  | unusedField
  deriving DecidableEq, Repr

/-- The opcodes R86 lists as unused. -/
def unusedOpcodes : List (BitVec 4) := [0x5, 0x6, 0x7, 0xD, 0xE, 0xF]

def rejectReason (w : Request) : Reject :=
  if w.op ∈ unusedOpcodes then .unusedOpcode
  else if w.rsv ≠ 0 then .reservedField
  else .unusedField

/-- R85: try the rows one after the other; if none matches, the word is reserved. -/
def tryRows (w : Request) : List Row → Except Reject Instr
  | [] => .error (rejectReason w)
  | r :: rows => if r.selects w then .ok (r.build w) else tryRows w rows

/-- R85: the ten rows of R83. -/
def decode (w : Request) : Except Reject Instr := tryRows w opcodeMap

/-! ### The encoder -/

/-- The word `OP, DV, RSV = 0, A, B, C` of R80. -/
def requestWord (op : BitVec 4) (dv : Bool) (a b c : Byte) : Request :=
  op ++ BitVec.ofBool dv ++ (0 : BitVec 3) ++ a ++ b ++ c

/-- The request word of a well-formed operation, field by field from R83's columns "OP" and "fields used". -/
def encode : Instr → Request
  | .extract byte mask shift => requestWord 0x0 false byte mask (shift.setWidth 8)
  | .insert value mask shift => requestWord 0x1 false value mask (shift.setWidth 8)
  | .odrenc rate => requestWord 0x2 false (BitVec.ofNat 8 rate) 0 0
  | .odrdec byte => requestWord 0x3 false byte 0 0
  | .asm16 lowByte highByte => requestWord 0x4 false lowByte highByte 0
  | .getfs dv => requestWord 0x8 dv 0 0 0
  | .setodr rate => requestWord 0x9 false (BitVec.ofNat 8 rate) 0 0
  | .getodr dv => requestWord 0xA dv 0 0 0
  | .intpin enable => requestWord 0xB false (BitVec.ofNat 8 enable) 0 0
  | .rdaxis dv axis => requestWord 0xC dv (BitVec.ofNat 8 axis) 0 0

/-! ### Other spellings -/

/-- R93: the operation a source call asks for. -/
def SourceCall.instr : SourceCall → Instr
  | .extract byte mask shift => .extract byte mask shift
  | .insert value mask shift => .insert value mask shift
  | .encode rate => .odrenc rate
  | .decode byte => .odrdec byte
  | .assemble lowByte highByte => .asm16 lowByte highByte
  | .getFullScaleConfig dest => .getfs dest
  | .setOutputDataRate rate => .setodr rate
  | .getOutputDataRate dest => .getodr dest
  | .enableDisableIntPin enable => .intpin enable
  | .readAxisData axis dest => .rdaxis dest axis

/-- R93: the request word of a source call, where it has one. -/
def SourceCall.request (c : SourceCall) : Option Request :=
  if c.instr.wellFormed then some (Sys2Proof.encode c.instr) else none

/-! The pseudo-operations of R92. -/

def pseudoInten : Instr := .intpin 1
def pseudoIntdis : Instr := .intpin 0
def pseudoExtractFs (b : Byte) : Instr := .extract b 0x60 5
def pseudoExtractDr (b : Byte) : Instr := .extract b 0x1C 2
def pseudoExtractFast (b : Byte) : Instr := .extract b 0x02 1
def pseudoExtractPm (b : Byte) : Instr := .extract b 0x60 5
def pseudoExtractIen (b : Byte) : Instr := .extract b 0x01 0
def pseudoInsertFs (v : Byte) : Instr := .insert v 0x60 5
def pseudoInsertDr (v : Byte) : Instr := .insert v 0x1C 2
def pseudoInsertFast (v : Byte) : Instr := .insert v 0x02 1
def pseudoInsertPm (v : Byte) : Instr := .insert v 0x60 5
def pseudoInsertIen (v : Byte) : Instr := .insert v 0x01 0

/-! ### The opcode table's words -/

/-- The request word whose low `nbits` bits are those of `w` and whose other bits are 0. -/
def tableWord (nbits w : Nat) : Request := BitVec.ofNat 32 (w % 2 ^ nbits)

/-- What the decoder reads from the word `w` of an opcode-table row of `nbits` bits. A request is one 32-bit word and
has no byte order (R80, R54), so the table's numbering of the bits is the request's own. -/
def decodeTableWord (nbits w : Nat) : Option Instr :=
  if nbits ≤ 32 then (decode (tableWord nbits w)).toOption else none

end Sys2Proof
end

