-- ==== Sys2Proof/Machine/Ops.lean ====
section
/-! DEFINITION. The shared operations: the response port, the two bus primitives (`20_memory.md` R51, R52) with the
transport's draws (R53, R70), the request port, and the form of an operation's rule. -/

namespace Sys2Proof.Machine

/-! ### Ending an operation -/

/-- Ending an operation with a response, Ok or not. It is the whole of what a trap entry would be (`60_exceptions.md`
R176): nothing is saved, no mode changes, control goes nowhere; the response is given and RBFC is idle again, so
there is no return from it either (R178). -/
def State.respond (s : State) (r : Response) : State := { s with responses := s.responses ++ [r] }

/-! ### The draws -/

/-- The draw for the next bus call of the instance under study (R53). -/
def State.nextDraw (s : State) : Draw :=
  match s.draws with
  | d :: _ => d
  | [] => Config.freeDraw s.drawn

/-- The transport's outcome for the next bus call. -/
def State.nextTransport (s : State) : Transport := s.nextDraw.transport

/-- The draw is used up. -/
def State.takeDraw (s : State) : State := { s with draws := s.draws.tail, drawn := s.drawn + 1 }

/-! ### The bus -/

/-- A transaction of master `who` at the fixed device address (R50) enters the record. -/
def State.record (s : State) (who : Master) (c : BusCall) : State :=
  { s with log := s.log ++ [{ who := who, devAddr := s.params.devAddr, call := c }] }

/-- The device's registers become `m`. -/
def State.setDev (s : State) (m : Memory) : State := { s with dev := m }

/-- The `n` bytes that the device holds from register address `a` on; byte k is that of address `a + k` (R51). -/
def State.bytesAt (s : State) (a : Byte) (n : Nat) : List Byte :=
  (List.range n).map (fun k => s.dev.read (a + BitVec.ofNat 8 k))

/-- What `MemRead(a, n)` returns when the transport draws `t`: `none` is `BusFailure` (R51, R53). -/
def State.readResult (s : State) (a : Byte) (n : Nat) (t : Transport) : Option (List Byte) :=
  if t.ok then some (s.bytesAt a n) else none

/-- `MemRead(a, n)` of R51. It changes nothing in the device (R58). -/
def State.memRead (s : State) (who : Master) (a : Byte) (n : Nat) (t : Transport) : State × Option (List Byte) :=
  (s.record who (.read a n (s.readResult a n t)), s.readResult a n t)

/-- `MemWrite(a, 1, [b])` of R52; the result is true for success. A write that fails leaves the old byte or the
attempted one, as drawn (R70). -/
def State.memWrite (s : State) (who : Master) (a b : Byte) (t : Transport) : State × Bool :=
  (((if t.ok || t.landed then s.setDev (s.dev.write a b) else s)).record who (.write a [b] t.ok), t.ok)

/-- `r[k]` of a list of bytes that a read returned. -/
def byteAt (r : List Byte) (k : Nat) : Byte := r.getD k 0

/-! ### The form of a rule -/

/-- What remains of an operation after its bus read (P2 to P4 of R212): it ends, or it issues its one write. After a
successful write it ends Ok with no datum, after a failed one with BusError (`WriteFailed`, R172). -/
inductive AfterRead where
  | answer (r : Response)
  | write (a b : Byte)

/-- An operation's rule: it ends without a bus access, or it issues its one read of `count` bytes at `a` and goes on
with the bytes the read returned; a failed read ends it with BusError (`ReadFailed`, R172). So no rule can issue more
than one read followed by one write (R60, R62), retry (R63) or write after a failed read. -/
inductive Rule where
  | answer (r : Response)
  | read (a : Byte) (count : Nat) (next : List Byte → AfterRead)

/-- What follows the bytes that were read. (A rule that reads nothing has nothing that follows; it has answered.) -/
def Rule.afterRead : Rule → List Byte → AfterRead
  | .answer r, _ => .answer r
  | .read _ _ next, bytes => next bytes

/-- The response to the one write of an operation (R172). -/
def writeResponse (success : Bool) : Response := if success then .ok none else .busError .writeFailed

/-- P2 to P4: the rest of an operation of master `who`, from the latched bytes' consequence `x`; `t` is drawn for the
write, if there is one. -/
def State.finish (s : State) (who : Master) (x : AfterRead) (t : Transport) : State × Response :=
  match x with
  | .answer r => (s, r)
  | .write a b => ((s.memWrite who a b t).1, writeResponse (s.memWrite who a b t).2)

/-! ### The request port -/

/-- The response to a reserved encoding: no bus access (`30_encoding.md` R86). -/
def reservedResponse : Response := .deviceError .reservedEncoding

/-- The next request is accepted (R61). -/
def State.popRequest (s : State) : State := { s with requests := s.requests.tail }

/-- The requester issues the word `w` next. -/
def State.pushRequest (s : State) (w : Request) : State := { s with requests := w :: s.requests }

end Sys2Proof.Machine
end

