-- ==== Sys2Proof/Machine/Codec.lean ====
section
/-! DEFINITION. The Register Codec: `40_register_codec.md`. -/

namespace Sys2Proof.Machine

/-- `extract` of R110: `(byte & mask) >> shift`. -/
def fieldExtract (byte mask : Byte) (shift : BitVec 3) : Byte := (byte &&& mask) >>> shift.toNat

/-- `insert` of R112: `(value << shift) & mask`, the left shift computed without loss. -/
def fieldInsert (value mask : Byte) (shift : BitVec 3) : Byte :=
  ((value.setWidth 15 <<< shift.toNat) &&& mask.setWidth 15).setWidth 8

/-- EXTRACT, R111. -/
def ruleExtract (byte mask : Byte) (shift : BitVec 3) (_ : Params) : Rule :=
  .answer (.ok (some (zext16 (fieldExtract byte mask shift))))

/-- INSERT, R113. -/
def ruleInsert (value mask : Byte) (shift : BitVec 3) (_ : Params) : Rule :=
  .answer (.ok (some (zext16 (fieldInsert value mask shift))))

end Sys2Proof.Machine
end

