-- ==== Sys2Proof/Machine/Axis.lean ====
section
/-! DEFINITION. The sample reassembler and the axis reader: `44_axis_reader.md`. -/

namespace Sys2Proof.Machine

/-- `asm16` of R161. Both bytes are unsigned when they are combined. -/
def asm16 (lowByte highByte : Byte) : Half := (zext16 highByte <<< 8) ||| zext16 lowByte

/-- `signed16` of R15, applied once to the finished pattern (R161). -/
def signed16 (v : Half) : Int := if v.toNat < 32768 then v.toNat else (v.toNat : Int) - 65536

/-- `sample` of R161. -/
def sample (lowByte highByte : Byte) : Int := signed16 (asm16 lowByte highByte)

/-- ASM16, R162. -/
def ruleAsm16 (lowByte highByte : Byte) (_ : Params) : Rule := .answer (.ok (some (asm16 lowByte highByte)))

/-- RDAXIS, R163: the destination check first, then the selector's (`90_conflicts.md` C8), then one two-byte read. -/
def ruleRdaxis (dv : Bool) (axis : Nat) (p : Params) : Rule :=
  if dv = false then .answer (.deviceError .nullDestination)
  else match axisAddr p axis with
    | none => .answer (.deviceError .unknownAxis)
    | some a => .read a 2 fun r => .answer (.ok (some (asm16 (byteAt r 0) (byteAt r 1))))

end Sys2Proof.Machine
end

