-- ==== Sys2Proof/Machine/DataRate.lean ====
section
/-! DEFINITION. The output data rate: `42_output_data_rate.md`. -/

namespace Sys2Proof.Machine

/-- `odr_encode` of R133; none is `Undefined`. -/
def odrEncode (rate : Nat) : Option Byte :=
  if normalRate rate then some (fieldInsert (BitVec.ofNat 8 rate) drMask drShift)
  else match modeOfRate rate with
    | some mode => some (fieldInsert 1 fastMask fastShift ||| fieldInsert mode.code pmMask pmShift)
    | none => none

/-- `odr_decode` of R135; none is `Implausible` (a mode code that has no row in the table). -/
def odrDecode (b : Byte) : Option Nat :=
  if fieldExtract b fastMask fastShift = 0 then some (fieldExtract b drMask drShift).toNat
  else rateOfMode (fieldExtract b pmMask pmShift)

/-- The response to a decoded rate, of R136 and R138. -/
def decodedResponse (d : Option Nat) : Response :=
  match d with
  | some rate => .ok (some (BitVec.ofNat 16 rate))
  | none => .deviceError .implausibleValue

/-- ODRENC, R134. -/
def ruleOdrenc (rate : Nat) (_ : Params) : Rule :=
  match odrEncode rate with
  | none => .answer (.deviceError .undefinedRate)
  | some e => .answer (.ok (some (zext16 e)))

/-- ODRDEC, R136. -/
def ruleOdrdec (byte : Byte) (_ : Params) : Rule := .answer (decodedResponse (odrDecode byte))

/-- SETODR, R137: the read comes before the check of the rate, and the combination is OR and nothing else
(`90_conflicts.md` C1, C2). -/
def ruleSetodr (rate : Nat) (p : Params) : Rule :=
  .read p.ctrl1 1 fun r =>
    let old := byteAt r 0
    match odrEncode rate with
    | none => .answer (.deviceError .undefinedRate)
    | some e => .write p.ctrl1 (old ||| e)

/-- GETODR, R138. -/
def ruleGetodr (dv : Bool) (p : Params) : Rule :=
  if dv = false then .answer (.deviceError .nullDestination)
  else .read p.ctrl1 1 fun r => .answer (decodedResponse (odrDecode (byteAt r 0)))

end Sys2Proof.Machine
end

