-- ==== Sys2Proof/Machine/FullScale.lean ====
section
/-! DEFINITION. The full-scale query: `41_full_scale.md`. -/

namespace Sys2Proof.Machine

/-- GETFS, R120. The check of the extracted code is the source's defensive one (R122). -/
def ruleGetfs (dv : Bool) (p : Params) : Rule :=
  if dv = false then .answer (.deviceError .nullDestination)
  else .read p.ctrl2 1 fun r =>
    let code := fieldExtract (byteAt r 0) fsMask fsShift
    if code > 3 then .answer (.deviceError .implausibleValue)
    else .answer (.ok (some (zext16 code)))

end Sys2Proof.Machine
end

