-- ==== Sys2Proof/Machine/IntPin.lean ====
section
/-! DEFINITION. The interrupt-pin enable: `43_interrupt_pin.md`. -/

namespace Sys2Proof.Machine

/-- The byte INTPIN writes: bit 0 set or cleared, the other bits as read (R150, R151). -/
def intPinByte (enable : Nat) (old : Byte) : Byte :=
  if enable = 1 then old ||| ienMask else old &&& ~~~ienMask

/-- INTPIN, R150. The operand is rejected, not reduced (`90_conflicts.md` C3). -/
def ruleIntpin (enable : Nat) (p : Params) : Rule :=
  if enable ≠ 0 ∧ enable ≠ 1 then .answer (.deviceError .invalidEnable)
  else .read p.intCfg 1 fun r => .write p.intCfg (intPinByte enable (byteAt r 0))

end Sys2Proof.Machine
end

