-- ==== Sys2Proof/Machine/Interleave.lean ====
section
/-! DEFINITION. The other agents (`00_scope.md` R9) and the running of an operation among them: their transactions fall
between any two bus transactions of an instance and never inside one (`20_memory.md` R57, R68;
`70_reset_and_hazards.md` R205, R212). -/

namespace Sys2Proof.Machine

/-- The rule of each operation, for the instances whose operations run phase by phase. -/
def ruleOf : Instr → Params → Rule
  | .extract byte mask shift => ruleExtract byte mask shift
  | .insert value mask shift => ruleInsert value mask shift
  | .odrenc rate => ruleOdrenc rate
  | .odrdec byte => ruleOdrdec byte
  | .asm16 lowByte highByte => ruleAsm16 lowByte highByte
  | .getfs dv => ruleGetfs dv
  | .setodr rate => ruleSetodr rate
  | .getodr dv => ruleGetodr dv
  | .intpin enable => ruleIntpin enable
  | .rdaxis dv axis => ruleRdaxis dv axis

/-! ### Another instance's phases -/

/-- The other instance number `k` becomes `x`. -/
def State.setRival (s : State) (k : Nat) (x : Rival) : State := { s with others := s.others.set k x }

/-- `x` has given the response `r` and is idle. -/
def Rival.respond (x : Rival) (r : Response) : Rival := { x with phase := .idle, responses := x.responses ++ [r] }

/-- `x` has accepted its next request. -/
def Rival.popRequest (x : Rival) : Rival := { x with requests := x.requests.tail }

/-- P0 and P1: instance `k`, which was `x`, has accepted operation `i`; `t` is drawn for its read, if it has one. -/
def State.rivalBegin (s : State) (k : Nat) (x : Rival) (i : Instr) (t : Transport) : State :=
  match ruleOf i s.params with
  | .answer r => s.setRival k (x.respond r)
  | .read a n _ =>
    match s.memRead (.other k) a n t with
    | (s', none) => s'.setRival k (x.respond (.busError .readFailed))
    | (s', some r) => s'.setRival k { x with phase := .latched i r }

/-- P2 to P4: instance `k`, which was `x`, goes on from its latched bytes; `t` is drawn for its write, if it has one. -/
def State.rivalFinish (s : State) (k : Nat) (x : Rival) (i : Instr) (r : List Byte) (t : Transport) : State :=
  match s.finish (.other k) ((ruleOf i s.params).afterRead r) t with
  | (s', rsp) => s'.setRival k (x.respond rsp)

/-- Instance `k` goes through its next phase. An idle instance that has no request to accept, and a number that no
instance has, change nothing. -/
def State.turn (s : State) (k : Nat) (t : Transport) : State :=
  match s.others[k]? with
  | none => s
  | some x =>
    match x.phase, x.requests with
    | .latched i r, _ => s.rivalFinish k x i r t
    | .idle, [] => s
    | .idle, w :: _ =>
      match decode w with
      | .error _ => s.setRival k (x.popRequest.respond reservedResponse)
      | .ok i => s.rivalBegin k x.popRequest i t

/-! ### The other agents between two bus calls -/

/-- One action of another agent. The device changes none but its axis data registers by itself (R69); in a closed
system no master that is no RBFC writes a control register (`CLOSED_SYSTEM`, R11). An action that is not possible
changes nothing. -/
def State.act (s : State) : Action → State
  | .measure a b => if a ∈ s.params.axisAddrs then s.setDev (s.dev.write a b) else s
  | .write a b =>
    if s.params.closed = true ∧ a ∈ s.params.controlAddrs then s
    else (s.setDev (s.dev.write a b)).record .software (.write a [b] true)
  | .turn k t => s.turn k t

def State.actAll (s : State) (l : List Action) : State := l.foldl State.act s

/-- The system right before the next bus call of the instance under study: the draw is taken and the other agents have
done what it says. -/
def State.othersAct (s : State) : State := s.takeDraw.actAll s.nextDraw.before

/-! ### Running an operation -/

/-- P2 to P4 of the operation of the instance under study: before its write, if there is one, the other agents act. -/
def State.complete (s : State) (x : AfterRead) : State :=
  match x with
  | .answer r => s.respond r
  | .write a b =>
    match s.othersAct.finish .self (.write a b) s.nextTransport with
    | (s', rsp) => s'.respond rsp

/-- An operation of the instance under study, from P0 to P4 of R212. The other agents act before each of its bus
calls, between the read and the write among them; the bytes that its read returned are latched meanwhile (R23, R24). -/
def State.run (s : State) (rule : Params → Rule) : State :=
  match rule s.params with
  | .answer r => s.respond r
  | .read a n next =>
    match s.othersAct.memRead .self a n s.nextTransport with
    | (s', none) => s'.respond (.busError .readFailed)
    | (s', some r) => s'.complete (next r)

/-- A step with no request to accept: RBFC stays idle and the other agents act. -/
def State.idle (s : State) : State := s.othersAct

/-- A request word that is a reserved encoding is answered with no bus access (`30_encoding.md` R86). -/
def State.rejectRequest (s : State) : State := s.respond reservedResponse

end Sys2Proof.Machine
end

