-- ==== Sys2Proof/Machine/Meaning.lean ====
section
/-! DEFINITION. The meaning of each operation: its rule, run among the other agents. Every operation ends in a response
(`60_exceptions.md` R170), so every meaning answers a next state. -/

namespace Sys2Proof.Machine

abbrev Result := Host.Outcome State Fault Refusal

/-- EXTRACT, R111. -/
def execExtract (byte mask : Byte) (shift : BitVec 3) (s : State) : Result := .next (s.run (ruleExtract byte mask shift))

/-- INSERT, R113. -/
def execInsert (value mask : Byte) (shift : BitVec 3) (s : State) : Result := .next (s.run (ruleInsert value mask shift))

/-- ODRENC, R134. -/
def execOdrenc (rate : Nat) (s : State) : Result := .next (s.run (ruleOdrenc rate))

/-- ODRDEC, R136. -/
def execOdrdec (byte : Byte) (s : State) : Result := .next (s.run (ruleOdrdec byte))

/-- ASM16, R162. -/
def execAsm16 (lowByte highByte : Byte) (s : State) : Result := .next (s.run (ruleAsm16 lowByte highByte))

/-- GETFS, R120. -/
def execGetfs (dv : Bool) (s : State) : Result := .next (s.run (ruleGetfs dv))

/-- SETODR, R137. -/
def execSetodr (rate : Nat) (s : State) : Result := .next (s.run (ruleSetodr rate))

/-- GETODR, R138. -/
def execGetodr (dv : Bool) (s : State) : Result := .next (s.run (ruleGetodr dv))

/-- INTPIN, R150. -/
def execIntpin (enable : Nat) (s : State) : Result := .next (s.run (ruleIntpin enable))

/-- RDAXIS, R163. -/
def execRdaxis (dv : Bool) (axis : Nat) (s : State) : Result := .next (s.run (ruleRdaxis dv axis))

end Sys2Proof.Machine
end

