-- ==== Sys2Proof/Machine/Dispatch.lean ====
section
/-! DEFINITION. One arm per operation. -/

namespace Sys2Proof.Machine

def exec (i : Instr) (s : State) : Host.Outcome State Fault Refusal :=
  match i with
  | .extract byte mask shift => Sys2Proof.Machine.execExtract byte mask shift s
  | .insert value mask shift => Sys2Proof.Machine.execInsert value mask shift s
  | .odrenc rate => Sys2Proof.Machine.execOdrenc rate s
  | .odrdec byte => Sys2Proof.Machine.execOdrdec byte s
  | .asm16 lowByte highByte => Sys2Proof.Machine.execAsm16 lowByte highByte s
  | .getfs dv => Sys2Proof.Machine.execGetfs dv s
  | .setodr rate => Sys2Proof.Machine.execSetodr rate s
  | .getodr dv => Sys2Proof.Machine.execGetodr dv s
  | .intpin enable => Sys2Proof.Machine.execIntpin enable s
  | .rdaxis dv axis => Sys2Proof.Machine.execRdaxis dv axis s

end Sys2Proof.Machine
end

