-- ==== Sys2Proof/Machine/Step.lean ====
section
/-! DEFINITION. One step of the system: one whole operation of the instance under study, with what the other agents do
among its bus transactions; or, when its requester has no request, what they do meanwhile. -/

namespace Sys2Proof.Machine

/-- RBFC has no program counter and fetches nothing (`10_state.md` R21): the requester's next word is accepted, decoded
(`30_encoding.md` R85) and executed. -/
def step (s : State) : Host.Outcome State Fault Refusal :=
  match s.requests with
  | [] => .next s.idle
  | w :: _ =>
    match decode w with
    | .error _ => .next s.popRequest.rejectRequest
    | .ok i => exec i s.popRequest

/-- `s` with the request word of an opcode-table row as the one its requester issues next. -/
def State.withFetchWord (s : State) (nbits w : Nat) : State := s.pushRequest (tableWord nbits w)

end Sys2Proof.Machine
end

