-- ==== Sys2Proof/Machine/Flags.lean ====
section
/-! DEFINITION. RBFC has no flags, condition codes or sticky bits (`10_state.md` R22). What stands in their place is the
status of each response, as the response port shows it (`30_encoding.md` R82, `60_exceptions.md` R170). -/

namespace Sys2Proof.Machine

/-- StatusCode (R32). -/
inductive StatusCode where
  | ok
  | deviceError
  | busError
  deriving DecidableEq, Repr

/-- `ST_OK`, `ST_DEVICE_ERROR`, `ST_BUS_ERROR` (R11, R32). The value 3 is no status's code. -/
def StatusCode.code : StatusCode → BitVec 2
  | .ok => 0
  | .deviceError => 1
  | .busError => 2

def Response.status : Response → StatusCode
  | .ok _ => .ok
  | .deviceError _ => .deviceError
  | .busError _ => .busError

/-- The datum, where the response carries one (R82). -/
def Response.data : Response → Option Half
  | .ok d => d
  | .deviceError _ => none
  | .busError _ => none

/-- The response word `RSP` of R82 as the port shows it: the status of bits 17:16, and bits 15:0 when they are driven.
The cause is not on the port (R17). -/
def Response.port (r : Response) : BitVec 2 × Option Half := (r.status.code, r.data)

/-- The response word `RSP` of 18 bits (R82) for a response that carries a datum. -/
def Response.word (r : Response) : Option (BitVec 18) := r.data.map (fun d => r.status.code ++ d)

end Sys2Proof.Machine
end

