-- ==== Sys2Proof/Safety.lean ====
section
/-! DEFINITION. What claims call a sound state, a legal transaction and an undisturbed system. No step faults and none
refuses (`60_exceptions.md` R170, R178), so every run is safe in that sense; these are the terms for the rest. -/

namespace Sys2Proof

/-- A request word is a reserved encoding (R84, R86), in terms of its fields: an opcode that has no operation, a reserved
field that is not 0, or a field that the opcode's operation does not use and that is not 0. -/
def Request.reserved (w : Request) : Bool :=
  decide (w.op ∈ unusedOpcodes) || w.rsv != 0 ||
  (decide (w.op ∈ [0x0, 0x1, 0x2, 0x3, 0x4, 0x9, 0xB]) && w.dv != 0) ||
  (decide (w.op ∈ [0x0, 0x1]) && decide (7 < w.c.toNat)) ||
  (decide (w.op ∈ [0x2, 0x3, 0x4, 0x8, 0x9, 0xA, 0xB, 0xC]) && w.c != 0) ||
  (decide (w.op ∈ [0x2, 0x3, 0x8, 0x9, 0xA, 0xB, 0xC]) && w.b != 0) ||
  (decide (w.op ∈ [0x8, 0xA]) && w.a != 0)

namespace Machine

/-- The base addresses of the three axis pairs (R30). -/
def axisBases (p : Params) : List Byte := [p.xL, p.yL, p.zL]

/-- A bus call as R56 and R59 let an RBFC instance issue it: a one-byte read of a control register, a two-byte read at
an axis's base address, or a one-byte write to control-1 or interrupt-config. -/
def BusCall.legal (p : Params) : BusCall → Bool
  | .read a n _ => (n == 1 && decide (a ∈ p.controlAddrs)) || (n == 2 && decide (a ∈ axisBases p))
  | .write a bytes _ => bytes.length == 1 && (a == p.ctrl1 || a == p.intCfg)

/-- A transaction at the fixed device address (R50), with a legal call if an RBFC instance issued it. -/
def Txn.legal (p : Params) (t : Txn) : Bool :=
  t.devAddr == p.devAddr && (t.who == .software || t.call.legal p)

/-- An instance that holds latched bytes is in a bus operation and holds as many bytes as its read returned
(R23, R51). -/
def Rival.sound (p : Params) (x : Rival) : Bool :=
  match x.phase with
  | .idle => true
  | .latched i r =>
    match ruleOf i p with
    | .answer _ => false
    | .read _ n _ => r.length == n

/-- The invariant of a run: R12 holds of the parameters, the device's registers are in canonical form, every recorded
transaction is legal, and every other instance is sound. -/
def State.sound (s : State) : Prop :=
  s.params.ok ∧ s.dev.wf ∧ (∀ t ∈ s.log, t.legal s.params = true) ∧ ∀ x ∈ s.others, x.sound s.params = true

/-- A closed system with one RBFC instance (R61): nobody else writes a control register. -/
def State.alone (s : State) : Prop := s.params.closed = true ∧ s.others = []

/-- The latest response, if any was given. -/
def State.lastResponse (s : State) : Option Response := s.responses.getLast?

/-- The bus calls that the instance under study has issued, the oldest first. -/
def State.ownCalls (s : State) : List BusCall :=
  (s.log.filter (fun t => t.who == .self)).map (fun t => t.call)

/-- The state that an outcome goes on with, if it does. -/
def nextState : Result → Option State
  | .next s => some s
  | .fault _ => none
  | .refused _ => none

end Machine

end Sys2Proof
end

