-- ==== Sys2Proof/Certificates/Slice0/Obligations.lean ====
section
/-! DEFINITION. The statements for the provers, from the numbered rules of `spec/`. Throughout, `s.othersAct` is the
state right before the next bus call, after the other agents have done whatever the draw for that call says. -/

open Sys2Proof Sys2Proof.Machine

/-! ### Reset -/

/-- From R200 (decision D18): after reset every instance is idle, with no operation in progress and no response given.
The empty record of transactions is the model's choice (assumption 10). -/
def Obligations.ResetLeavesEveryInstanceIdle : Prop :=
  State.reset.responses = [] ∧ State.reset.log = [] ∧
    ∀ x ∈ State.reset.others, x.phase = .idle ∧ x.responses = []

/-- The state after reset meets the invariant of every run; R12 holds of its parameters, whatever they are
(assumption 3). -/
def Obligations.ResetIsSound : Prop := State.reset.sound

/-! ### Request words -/

/-- Decoding the word of a well-formed operation gives the operation back, with every operand (R80, R81, R83). -/
def Obligations.DecodeOfEncode : Prop :=
  ∀ i : Instr, i.wellFormed = true → decode (encode i) = .ok i

/-- A word that decodes is the word of the operation it decodes to: no bit of it is ignored. -/
def Obligations.EncodeOfDecode : Prop :=
  ∀ (w : Request) (i : Instr), decode w = .ok i → i.wellFormed = true ∧ encode i = w

/-- Every word matches exactly one row and is that row's operation, or matches none and is reserved: R85, which the spec
itself derives from R83. -/
def Obligations.EveryWordMatchesOneRowOrIsReserved : Prop :=
  ∀ w : Request,
    (∃ r, opcodeMap.filter (fun r => r.selects w) = [r] ∧ decode w = .ok (r.build w)) ∨
      (opcodeMap.filter (fun r => r.selects w) = [] ∧ ∃ e, decode w = .error e)

/-- R84 (decision D14): the reserved encodings are the words with an unused opcode, and those with a field that must
be 0 and is not. -/
def Obligations.ReservedEncodingsByTheirFields : Prop :=
  ∀ w : Request, (∃ e, decode w = .error e) ↔ w.reserved = true

/-- R86 (decision D14): a reserved encoding is answered with DeviceError and nothing else happens. -/
def Obligations.ReservedRequestIsAnsweredWithoutBus : Prop :=
  ∀ (s : State) (w : Request) (l : List Request), s.requests = w :: l → w.reserved = true →
    step s = .next { s with requests := l, responses := s.responses ++ [.deviceError .reservedEncoding] }

/-- Some request words of R91 and `95_test_vectors.md` and the operations they stand for. -/
def Obligations.SampleWordsDecode : Prop :=
  decode 0x009F6005 = .ok (.extract 0x9F 0x60 5) ∧ decode 0x10036005 = .ok (.insert 3 0x60 5) ∧
  decode 0x20080000 = .ok (.odrenc 8) ∧ decode 0x30620000 = .ok (.odrdec 0x62) ∧
  decode 0x40341200 = .ok (.asm16 0x34 0x12) ∧ decode 0x88000000 = .ok (.getfs true) ∧
  decode 0x80000000 = .ok (.getfs false) ∧ decode 0x90040000 = .ok (.setodr 4) ∧
  decode 0xA8000000 = .ok (.getodr true) ∧ decode 0xB0010000 = .ok (.intpin 1) ∧
  decode 0xC8020000 = .ok (.rdaxis true 2) ∧ decode 0xC0000000 = .ok (.rdaxis false 0)

/-- R93, with decision D9 and as the model reads it (assumption 11): the operation each source call asks for; a call
whose operand fits has a request word, and that word decodes to the operation; a call whose operand does not fit has
none; and an operand above 255 is treated as 255 is. -/
def Obligations.WideOperandsAreTreatedAsReservedOnes : Prop :=
  ((∀ b m k, (SourceCall.extract b m k).instr = .extract b m k) ∧
    (∀ v m k, (SourceCall.insert v m k).instr = .insert v m k) ∧
    (∀ n, (SourceCall.encode n).instr = .odrenc n) ∧ (∀ b, (SourceCall.decode b).instr = .odrdec b) ∧
    (∀ l h, (SourceCall.assemble l h).instr = .asm16 l h) ∧
    (SourceCall.getFullScaleConfig true).request = some 0x88000000 ∧
    (SourceCall.getFullScaleConfig false).request = some 0x80000000 ∧
    (∀ dest, (SourceCall.getFullScaleConfig dest).instr = .getfs dest) ∧
    (∀ n, (SourceCall.setOutputDataRate n).instr = .setodr n) ∧
    (SourceCall.getOutputDataRate true).request = some 0xA8000000 ∧
    (SourceCall.getOutputDataRate false).request = some 0xA0000000 ∧
    (∀ dest, (SourceCall.getOutputDataRate dest).instr = .getodr dest) ∧
    (∀ n, (SourceCall.enableDisableIntPin n).instr = .intpin n) ∧
    ∀ n dest, (SourceCall.readAxisData n dest).instr = .rdaxis dest n) ∧
  (∀ c : SourceCall,
    (c.instr.wellFormed = true → ∃ w, c.request = some w ∧ decode w = .ok c.instr) ∧
    (c.instr.wellFormed = false → c.request = none)) ∧
  ∀ (s : State) (n : Nat), 255 < n →
    (SourceCall.encode n).request = none ∧ (SourceCall.setOutputDataRate n).request = none ∧
    (SourceCall.enableDisableIntPin n).request = none ∧ (∀ dest, (SourceCall.readAxisData n dest).request = none) ∧
    exec (.odrenc n) s = exec (.odrenc 255) s ∧ exec (.setodr n) s = exec (.setodr 255) s ∧
    exec (.intpin n) s = exec (.intpin 255) s ∧ ∀ dv, exec (.rdaxis dv n) s = exec (.rdaxis dv 255) s

/-! ### One step -/

/-- A step accepts the requester's next word and is the meaning of the operation it decodes to. -/
def Obligations.StepRunsTheDecodedOperation : Prop :=
  ∀ (s : State) (w : Request) (l : List Request) (i : Instr), s.requests = w :: l → decode w = .ok i →
    step s = exec i { s with requests := l }

/-- With no request to accept, RBFC gives no response and makes no bus call (assumption 9). -/
def Obligations.IdleStepIssuesNothing : Prop :=
  ∀ s : State, s.requests = [] → ∃ t, step s = .next t ∧ t.requests = [] ∧ t.responses = s.responses ∧
    t.ownCalls = s.ownCalls ∧ t.params = s.params

/-! ### The Register Codec -/

/-- R110, R111: EXTRACT's datum is the masked byte shifted down; nothing else changes. -/
def Obligations.ExtractResult : Prop :=
  ∀ (s : State) (byte mask : Byte) (shift : BitVec 3),
    exec (.extract byte mask shift) s = .next { s with responses := s.responses ++
      [.ok (some (BitVec.ofNat 16 ((byte.toNat &&& mask.toNat) / 2 ^ shift.toNat)))] }

/-- R112, R113: INSERT's datum is the value shifted up without loss and then masked; nothing else changes. -/
def Obligations.InsertResult : Prop :=
  ∀ (s : State) (value mask : Byte) (shift : BitVec 3),
    exec (.insert value mask shift) s = .next { s with responses := s.responses ++
      [.ok (some (BitVec.ofNat 16 (value.toNat * 2 ^ shift.toNat &&& mask.toNat)))] }

/-- The laws of the two functions, and what they come to for the field constants: R114 and R31, which the spec itself
derives from R110, R112 and R26. -/
def Obligations.CodecLaws : Prop :=
  (∀ (b v m : Byte) (s : BitVec 3),
    fieldInsert v m s &&& ~~~m = 0 ∧
    fieldExtract (fieldInsert v m s) m s = v &&& (m >>> s.toNat) ∧
    fieldInsert (fieldExtract b m s) m s = b &&& m &&& ~~~(BitVec.ofNat 8 (2 ^ s.toNat - 1)) ∧
    (b ||| fieldInsert v m s) &&& ~~~m = b &&& ~~~m ∧
    fieldExtract (b ||| fieldInsert v m s) m s = fieldExtract b m s ||| (v &&& (m >>> s.toNat))) ∧
  ∀ f ∈ ([(fsMask, fsShift, 3), (drMask, drShift, 7), (fastMask, fastShift, 1), (pmMask, pmShift, 3),
      (ienMask, ienShift, 1)] : List (Byte × BitVec 3 × Nat)),
    (∀ v : Byte, v.toNat ≤ f.2.2 → fieldExtract (fieldInsert v f.1 f.2.1) f.1 f.2.1 = v) ∧
    ∀ b : Byte, fieldInsert (fieldExtract b f.1 f.2.1) f.1 f.2.1 = b &&& f.1

/-! ### The output data rate -/

/-- From R133, R134: ODRENC's datum for each of the twelve defined rates, DeviceError for every other; nothing else
changes. For the rates above 255 this is the model's reading of R93 (assumption 11). -/
def Obligations.OdrencResult : Prop :=
  ∀ (s : State) (rate : Nat),
    (rate ≤ 7 → exec (.odrenc rate) s =
      .next { s with responses := s.responses ++ [.ok (some (BitVec.ofNat 16 (rate * 4)))] }) ∧
    (8 ≤ rate → rate ≤ 11 → exec (.odrenc rate) s =
      .next { s with responses := s.responses ++ [.ok (some (BitVec.ofNat 16 (2 + (11 - rate) * 32)))] }) ∧
    (12 ≤ rate → exec (.odrenc rate) s =
      .next { s with responses := s.responses ++ [.deviceError .undefinedRate] })

/-- R135, R136: every byte decodes, to the code of bits 4:2 when bit 1 is clear and to the fast rate of the mode of
bits 6:5 when it is set; nothing else changes. -/
def Obligations.OdrdecResult : Prop :=
  ∀ (s : State) (byte : Byte),
    exec (.odrdec byte) s = .next { s with responses := s.responses ++ [.ok (some (BitVec.ofNat 16
      (if byte.getLsbD 1 then 11 - byte.toNat / 32 % 4 else byte.toNat / 4 % 8)))] }

/-- R139: a defined rate's raw encoding decodes to the rate, and so does any byte whose bits 6 to 1 were clear before
the encoding was OR-ed in. -/
def Obligations.RateRoundTrip : Prop :=
  ∀ rate : Nat, rate ≤ 11 → ∃ e, odrEncode rate = some e ∧ odrDecode e = some rate ∧
    ∀ old : Byte, old &&& 0x7E = 0 → odrDecode (old ||| e) = some rate

/-- R140: the table of fast rates is symmetric. -/
def Obligations.FastRateTableIsSymmetric : Prop :=
  (∀ m : PerformanceMode, ∃ r e, rateOfMode m.code = some r ∧ modeOfRate r = some m ∧ odrEncode r = some e ∧
    fieldExtract e pmMask pmShift = m.code) ∧
  ∀ r : Nat, 8 ≤ r → r ≤ 11 → ∃ m, modeOfRate r = some m ∧ rateOfMode m.code = some r

/-- What the OR leaves in the three fields, and exactly when the byte then decodes to the rate that was set: R141, which
the spec itself derives from R137, R135 and R114. -/
def Obligations.OrLeavesTheOldFieldsMerged : Prop :=
  ∀ (old e : Byte) (rate : Nat), odrEncode rate = some e →
    (rate ≤ 7 →
      fieldExtract (old ||| e) drMask drShift = fieldExtract old drMask drShift ||| BitVec.ofNat 8 rate ∧
      fieldExtract (old ||| e) fastMask fastShift = fieldExtract old fastMask fastShift ∧
      fieldExtract (old ||| e) pmMask pmShift = fieldExtract old pmMask pmShift ∧
      (odrDecode (old ||| e) = some rate ↔
        fieldExtract old fastMask fastShift = 0 ∧
          fieldExtract old drMask drShift ||| BitVec.ofNat 8 rate = BitVec.ofNat 8 rate)) ∧
    ∀ m : PerformanceMode, modeOfRate rate = some m →
      fieldExtract (old ||| e) pmMask pmShift = fieldExtract old pmMask pmShift ||| m.code ∧
      fieldExtract (old ||| e) fastMask fastShift = 1 ∧
      fieldExtract (old ||| e) drMask drShift = fieldExtract old drMask drShift ∧
      (odrDecode (old ||| e) = some rate ↔ fieldExtract old pmMask pmShift ||| m.code = m.code)

/-- From R137: every outcome of SETODR, in the order of its tests, with the whole state it leaves. For the rates above
255 this is the model's reading of R93 (assumption 11). -/
def Obligations.SetodrOutcomes : Prop :=
  ∀ (s : State) (rate : Nat) (e : Byte),
    let a := s.params.ctrl1
    let old := s.othersAct.dev.read a
    let m := s.othersAct.record .self (.read a 1 (some [old]))
    let before := m.othersAct
    (s.nextTransport.ok = false → exec (.setodr rate) s =
      .next ((s.othersAct.record .self (.read a 1 none)).respond (.busError .readFailed))) ∧
    (s.nextTransport.ok = true → 12 ≤ rate → exec (.setodr rate) s =
      .next (m.respond (.deviceError .undefinedRate))) ∧
    (s.nextTransport.ok = true → odrEncode rate = some e → m.nextTransport.ok = false → exec (.setodr rate) s =
      .next (((before.setDev (if m.nextTransport.landed then before.dev.write a (old ||| e) else before.dev)).record
        .self (.write a [old ||| e] false)).respond (.busError .writeFailed))) ∧
    (s.nextTransport.ok = true → odrEncode rate = some e → m.nextTransport.ok = true → exec (.setodr rate) s =
      .next (((before.setDev (before.dev.write a (old ||| e))).record
        .self (.write a [old ||| e] true)).respond (.ok none)))

/-- R142: an Ok SETODR read one byte and wrote one, in which every bit of the byte it
read is still set and bits 7 and 0 are as they were. -/
def Obligations.SetodrNeverClearsABit : Prop :=
  ∀ (s t : State) (rate : Nat), exec (.setodr rate) s = .next t → t.lastResponse = some (.ok none) →
    ∃ old new : Byte,
      t.ownCalls = s.ownCalls ++ [.read s.params.ctrl1 1 (some [old]), .write s.params.ctrl1 [new] true] ∧
      t.dev.read s.params.ctrl1 = new ∧ new &&& old = old ∧ new &&& 0x81 = old &&& 0x81

/-- R138: every outcome of GETODR, with the whole state it leaves. -/
def Obligations.GetodrOutcomes : Prop :=
  ∀ s : State,
    let a := s.params.ctrl1
    let b := s.othersAct.dev.read a
    exec (.getodr false) s = .next { s with responses := s.responses ++ [.deviceError .nullDestination] } ∧
    (s.nextTransport.ok = false → exec (.getodr true) s =
      .next ((s.othersAct.record .self (.read a 1 none)).respond (.busError .readFailed))) ∧
    (s.nextTransport.ok = true → exec (.getodr true) s =
      .next ((s.othersAct.record .self (.read a 1 (some [b]))).respond (.ok (some (BitVec.ofNat 16
        (if b.getLsbD 1 then 11 - b.toNat / 32 % 4 else b.toNat / 4 % 8))))))

/-- From R210 and R204: with nobody else writing control-1, a GETODR after an Ok SETODR reports the byte that the OR
made, which need not be the rate that was set. -/
def Obligations.GetodrAfterSetodrReportsTheMergedByte : Prop :=
  ∀ (s t u : State) (rate : Nat) (e : Byte) (d : Option Half), s.sound → s.alone → odrEncode rate = some e →
    exec (.setodr rate) s = .next t → t.lastResponse = some (.ok none) →
    exec (.getodr true) t = .next u → u.lastResponse = some (.ok d) →
      d = (odrDecode (s.dev.read s.params.ctrl1 ||| e)).map (BitVec.ofNat 16)

/-! ### The full-scale range -/

/-- R120, R123: every outcome of GETFS, with the whole state it leaves; the datum is bits 6:5 of control-2. -/
def Obligations.GetfsOutcomes : Prop :=
  ∀ s : State,
    let a := s.params.ctrl2
    let b := s.othersAct.dev.read a
    exec (.getfs false) s = .next { s with responses := s.responses ++ [.deviceError .nullDestination] } ∧
    (s.nextTransport.ok = false → exec (.getfs true) s =
      .next ((s.othersAct.record .self (.read a 1 none)).respond (.busError .readFailed))) ∧
    (s.nextTransport.ok = true → exec (.getfs true) s =
      .next ((s.othersAct.record .self (.read a 1 (some [b]))).respond
        (.ok (some (BitVec.ofNat 16 (b.toNat / 32 % 4))))))

/-! ### The interrupt pin -/

/-- From R150: every outcome of INTPIN, in the order of its tests, with the whole state it leaves. For the operands
above 255 this is the model's reading of R93 (assumption 11). -/
def Obligations.IntpinOutcomes : Prop :=
  ∀ (s : State) (enable : Nat),
    let a := s.params.intCfg
    let old := s.othersAct.dev.read a
    let new := if enable = 1 then old ||| 0x01 else old &&& 0xFE
    let m := s.othersAct.record .self (.read a 1 (some [old]))
    let before := m.othersAct
    (2 ≤ enable → exec (.intpin enable) s =
      .next { s with responses := s.responses ++ [.deviceError .invalidEnable] }) ∧
    (enable ≤ 1 → s.nextTransport.ok = false → exec (.intpin enable) s =
      .next ((s.othersAct.record .self (.read a 1 none)).respond (.busError .readFailed))) ∧
    (enable ≤ 1 → s.nextTransport.ok = true → m.nextTransport.ok = false → exec (.intpin enable) s =
      .next (((before.setDev (if m.nextTransport.landed then before.dev.write a new else before.dev)).record
        .self (.write a [new] false)).respond (.busError .writeFailed))) ∧
    (enable ≤ 1 → s.nextTransport.ok = true → m.nextTransport.ok = true → exec (.intpin enable) s =
      .next (((before.setDev (before.dev.write a new)).record .self (.write a [new] true)).respond (.ok none)))

/-- An Ok INTPIN wrote a byte whose bit 0 is the operand and whose other bits are those it read: R151, which the spec
itself derives from R150, R110 and R112. -/
def Obligations.IntpinWritesExactlyItsBit : Prop :=
  ∀ (s t : State) (enable : Nat), exec (.intpin enable) s = .next t → t.lastResponse = some (.ok none) →
    ∃ old new : Byte,
      t.ownCalls = s.ownCalls ++ [.read s.params.intCfg 1 (some [old]), .write s.params.intCfg [new] true] ∧
      t.dev.read s.params.intCfg = new ∧ new &&& 0xFE = old &&& 0xFE ∧
      fieldExtract new ienMask ienShift = BitVec.ofNat 8 enable ∧ enable ≤ 1

/-- R152: enable then disable, both Ok, in a closed system with one instance. -/
def Obligations.IntpinOnThenOff : Prop :=
  ∀ s t u : State, s.sound → s.alone →
    exec (.intpin 1) s = .next t → t.lastResponse = some (.ok none) →
    exec (.intpin 0) t = .next u → u.lastResponse = some (.ok none) →
      t.dev.read s.params.intCfg = s.dev.read s.params.intCfg ||| 0x01 ∧
      u.dev.read s.params.intCfg = s.dev.read s.params.intCfg &&& 0xFE

/-! ### The axis reader -/

/-- R162: ASM16's datum; nothing else changes. -/
def Obligations.Asm16Result : Prop :=
  ∀ (s : State) (lowByte highByte : Byte),
    exec (.asm16 lowByte highByte) s = .next { s with responses := s.responses ++
      [.ok (some (BitVec.ofNat 16 (highByte.toNat * 256 + lowByte.toNat)))] }

/-- R161: the pattern is the two bytes, high byte first; its signed reading takes the sign from bit 7 of the high byte
alone; and every pattern comes from exactly one pair of bytes. -/
def Obligations.ReassemblyIsABijection : Prop :=
  (∀ lowByte highByte : Byte,
    asm16 lowByte highByte = highByte ++ lowByte ∧
    sample lowByte highByte =
      (highByte.toNat * 256 + lowByte.toNat : Int) - (if highByte.getLsbD 7 then 65536 else 0)) ∧
  ∀ v : Half, ∃ lowByte highByte : Byte, asm16 lowByte highByte = v ∧
    ∀ l h : Byte, asm16 l h = v → l = lowByte ∧ h = highByte

/-- From R163: every outcome of RDAXIS, in the order of its tests, with the whole state it leaves. For the selectors
above 255 this is the model's reading of R93 (assumption 11); where R12 does not hold, a base of 0xFF has its high
byte at 0x00 by the model's choice (assumptions 5, 13). -/
def Obligations.RdaxisOutcomes : Prop :=
  ∀ (s : State) (axis : Nat) (a : Byte),
    let lo := s.othersAct.dev.read a
    let hi := s.othersAct.dev.read (a + 1)
    exec (.rdaxis false axis) s = .next { s with responses := s.responses ++ [.deviceError .nullDestination] } ∧
    (3 ≤ axis → exec (.rdaxis true axis) s =
      .next { s with responses := s.responses ++ [.deviceError .unknownAxis] }) ∧
    ((axis = 0 ∧ a = s.params.xL ∨ axis = 1 ∧ a = s.params.yL ∨ axis = 2 ∧ a = s.params.zL) →
      (s.nextTransport.ok = false → exec (.rdaxis true axis) s =
        .next ((s.othersAct.record .self (.read a 2 none)).respond (.busError .readFailed))) ∧
      (s.nextTransport.ok = true → exec (.rdaxis true axis) s =
        .next ((s.othersAct.record .self (.read a 2 (some [lo, hi]))).respond
          (.ok (some (BitVec.ofNat 16 (hi.toNat * 256 + lo.toNat)))))))

/-- From R69 and R71 (decisions D22, D30): the environment can have RDAXIS return any two bytes whatever, even in a
closed system. -/
def Obligations.AnySampleCanBeRead : Prop :=
  ∀ (s : State) (axis : Nat) (lo hi : Byte), axis ≤ 2 →
    ∃ l t, exec (.rdaxis true axis) { s with draws := l } = .next t ∧
      t.responses = s.responses ++ [.ok (some (hi ++ lo))]

/-! ### Frames -/

/-- The eight operations that write nothing: where no other agent acts, every device register, the parameters, the
requests and the other instances are as before. -/
def Obligations.ReadingOperationsFrame : Prop :=
  ∀ (i : Instr) (s t : State), (∀ n, i ≠ .setodr n) → (∀ n, i ≠ .intpin n) → s.nextDraw.before = [] →
    exec i s = .next t →
      (∀ a, t.dev.read a = s.dev.read a) ∧ t.dev = s.dev ∧ t.params = s.params ∧ t.requests = s.requests ∧
      t.others = s.others

/-- SETODR and INTPIN: where no other agent acts, every device register but the one they write, which is control-1 or
interrupt-config, is as before, and so are the parameters, the requests and the other instances. -/
def Obligations.WritingOperationsFrame : Prop :=
  ∀ (s t : State) (n : Nat), s.nextDraw.before = [] → s.takeDraw.nextDraw.before = [] →
    (exec (.setodr n) s = .next t →
      (∀ a, a ≠ s.params.ctrl1 → t.dev.read a = s.dev.read a) ∧ t.params = s.params ∧ t.requests = s.requests ∧
      t.others = s.others) ∧
    (exec (.intpin n) s = .next t →
      (∀ a, a ≠ s.params.intCfg → t.dev.read a = s.dev.read a) ∧ t.params = s.params ∧ t.requests = s.requests ∧
      t.others = s.others)

/-- From the columns "who writes" of R27 to R29: in a closed system with one instance, only SETODR changes control-1,
only INTPIN changes interrupt-config, and no operation changes control-2. -/
def Obligations.EachControlRegisterHasItsOnlyWriter : Prop :=
  ∀ (i : Instr) (s t : State), s.sound → s.alone → exec i s = .next t →
    ((∀ n, i ≠ .setodr n) → t.dev.read s.params.ctrl1 = s.dev.read s.params.ctrl1) ∧
    ((∀ n, i ≠ .intpin n) → t.dev.read s.params.intCfg = s.dev.read s.params.intCfg) ∧
    t.dev.read s.params.ctrl2 = s.dev.read s.params.ctrl2

/-! ### The bus -/

/-- From R52 and R70 (decision D20): after a successful write the register holds the byte; after a failed one it holds
the old byte or the attempted one, and both are possible; no other register changes. -/
def Obligations.WhatAWriteLeavesBehind : Prop :=
  ∀ (s : State) (who : Master) (a b : Byte),
    (∀ t : Transport,
      (t.ok = true → (s.memWrite who a b t).1.dev.read a = b) ∧
      ((s.memWrite who a b t).1.dev.read a = s.dev.read a ∨ (s.memWrite who a b t).1.dev.read a = b) ∧
      ∀ c, c ≠ a → (s.memWrite who a b t).1.dev.read c = s.dev.read c) ∧
    (∃ t : Transport, t.ok = false ∧ (s.memWrite who a b t).1.dev.read a = s.dev.read a) ∧
    ∃ t : Transport, t.ok = false ∧ (s.memWrite who a b t).1.dev.read a = b

/-- Two canonical register contents that read alike are the same data (the model's own form of `Dev`, R25). -/
def Obligations.CanonicalRegistersAreEqualWhenTheyReadAlike : Prop :=
  ∀ m n : Memory, m.wf → n.wf → (∀ a : Byte, m.read a = n.read a) → m = n

/-- R60, R62, R63: an operation makes no bus call, or one read, or one successful read followed by one write. -/
def Obligations.AtMostOneReadThenOneWrite : Prop :=
  ∀ (i : Instr) (s t : State), exec i s = .next t → ∃ calls, t.ownCalls = s.ownCalls ++ calls ∧
    (calls = [] ∨ (∃ a n r, calls = [.read a n r]) ∨
      ∃ a n r b ok, calls = [.read a n (some r), .write a [b] ok])

/-- From R69 and `CLOSED_SYSTEM` of R11 (assumption 7): in a closed system, and with no other instance, whatever the
others do before a bus call leaves the three control registers as they are. -/
def Obligations.ClosedSystemKeepsControlRegisters : Prop :=
  ∀ s : State, s.params.ok → s.alone → s.othersAct.alone ∧
    ∀ a ∈ s.params.controlAddrs, s.othersAct.dev.read a = s.dev.read a

/-! ### Responses -/

/-- R170: every operation ends with exactly one of the three status codes, and goes on from there: its one response is
added, and the requests and the parameters are untouched. -/
def Obligations.EveryOperationGivesOneResponse : Prop :=
  ∀ (i : Instr) (s : State), ∃ t r, exec i s = .next t ∧ t.responses = s.responses ++ [r] ∧
    (r.port.1 = 0 ∨ r.port.1 = 1 ∨ r.port.1 = 2) ∧ t.requests = s.requests ∧ t.params = s.params

/-- From R82 (decision D2): there is a datum exactly when the status is Ok and the operation returns one; a byte's
datum has its high half clear. -/
def Obligations.DatumExactlyOnOk : Prop :=
  ∀ (i : Instr) (s t : State) (r : Response), exec i s = .next t → t.lastResponse = some r →
    (r.port.2.isSome = true ↔ r.port.1 = 0 ∧ (∀ n, i ≠ .setodr n) ∧ ∀ n, i ≠ .intpin n) ∧
    ((∀ l h, i ≠ .asm16 l h) → (∀ dv n, i ≠ .rdaxis dv n) → ∀ d, r.port.2 = some d → d.toNat < 256)

/-- From R177: an operation that ends with DeviceError has written nothing; the device is as it was, or as the other
agents left it before the one read. -/
def Obligations.NoWriteOnDeviceError : Prop :=
  ∀ (i : Instr) (s t : State) (c : DeviceCause), exec i s = .next t → t.lastResponse = some (.deviceError c) →
    (t.dev = s.dev ∧ t.ownCalls = s.ownCalls) ∨
      (t.dev = s.othersAct.dev ∧ ∃ a n r, t.ownCalls = s.ownCalls ++ [.read a n (some r)])

/-- From R22: an earlier response, Ok or not, and the earlier bus transactions do not change what an operation does. -/
def Obligations.EarlierOutcomesChangeNothing : Prop :=
  ∀ (i : Instr) (s t : State) (rs : List Response) (lg : List Txn), exec i s = .next t →
    ∃ u r l, exec i { s with responses := rs, log := lg } = .next u ∧
      t.responses = s.responses ++ [r] ∧ u.responses = rs ++ [r] ∧ t.log = s.log ++ l ∧ u.log = lg ++ l ∧
      u.params = t.params ∧ u.dev = t.dev ∧ u.requests = t.requests ∧ u.others = t.others ∧ u.draws = t.draws ∧
      u.drawn = t.drawn

/-! ### Hazards -/

/-- From R206: a failed write leaves the old byte or the attempted one, and a retry that ends Ok leaves the byte the
first attempt meant to write; for SETODR and for INTPIN, in a closed system with one instance. -/
def Obligations.RetryAfterFailedWriteConverges : Prop :=
  ∀ (s t u : State), s.sound → s.alone → t.lastResponse = some (.busError .writeFailed) →
    u.lastResponse = some (.ok none) →
    (∀ (rate : Nat) (e : Byte), odrEncode rate = some e →
      exec (.setodr rate) s = .next t → exec (.setodr rate) t = .next u →
        (t.dev.read s.params.ctrl1 = s.dev.read s.params.ctrl1 ∨
          t.dev.read s.params.ctrl1 = s.dev.read s.params.ctrl1 ||| e) ∧
        u.dev.read s.params.ctrl1 = s.dev.read s.params.ctrl1 ||| e) ∧
    ∀ enable : Nat, exec (.intpin enable) s = .next t → exec (.intpin enable) t = .next u →
      (t.dev.read s.params.intCfg = s.dev.read s.params.intCfg ∨
        t.dev.read s.params.intCfg = intPinByte enable (s.dev.read s.params.intCfg)) ∧
      u.dev.read s.params.intCfg = intPinByte enable (s.dev.read s.params.intCfg)

/-- From R205: what another master writes to the register between the read and the write of SETODR or INTPIN is lost,
and the operation responds Ok. -/
def Obligations.WriteBetweenReadAndWriteIsLost : Prop :=
  ∀ (s : State) (x : Byte) (t1 t2 : Transport) (l : List Draw), s.params.closed = false → t1.ok = true → t2.ok = true →
    (∀ (rate : Nat) (e : Byte), odrEncode rate = some e →
      s.draws = ⟨[], t1⟩ :: ⟨[.write s.params.ctrl1 x], t2⟩ :: l →
        ∃ t, exec (.setodr rate) s = .next t ∧ t.lastResponse = some (.ok none) ∧
          t.dev.read s.params.ctrl1 = s.dev.read s.params.ctrl1 ||| e) ∧
    ∀ enable : Nat, enable ≤ 1 →
      s.draws = ⟨[], t1⟩ :: ⟨[.write s.params.intCfg x], t2⟩ :: l →
        ∃ t, exec (.intpin enable) s = .next t ∧ t.lastResponse = some (.ok none) ∧
          t.dev.read s.params.intCfg = intPinByte enable (s.dev.read s.params.intCfg)

/-- R205's instance with two RBFC instances and no mutex (program P6): from control-1 = 0x00, one instance given
SETODR 4 and the other SETODR 8, each of the end values 0x72, 0x62 and 0x10 can come about, both instances responding
Ok. -/
def Obligations.TwoInstancesCanLoseAnUpdate : Prop :=
  ∀ v ∈ ([0x72, 0x62, 0x10] : List Byte), ∃ s t : State,
    s.sound ∧ s.dev.read s.params.ctrl1 = 0x00 ∧ s.requests = [0x90040000] ∧ s.responses = [] ∧
    s.others = [{ requests := [0x90080000], phase := .idle, responses := [] }] ∧
    Host.Core.run core 2 s = .next t ∧ t.dev.read s.params.ctrl1 = v ∧ t.responses = [.ok none] ∧
    t.others = [{ requests := [], phase := .idle, responses := [.ok none] }]

/-! ### The whole machine -/

/-- Every step keeps the invariant: R12 holds of the parameters, the device's registers are canonical, every RBFC
transaction is one that R56 and R59 allow, and every instance in mid-operation holds the bytes of its read. -/
def Obligations.StepKeepsSoundness : Prop :=
  ∀ s t : State, s.sound → step s = .next t → t.sound ∧ t.params = s.params

/-- From R28: in a closed system no step changes control-2, however many instances there are. -/
def Obligations.NothingChangesTheFullScaleRange : Prop :=
  ∀ s t : State, s.sound → s.params.closed = true → step s = .next t →
    t.dev.read s.params.ctrl2 = s.dev.read s.params.ctrl2

/-- From R204 and R142: in a closed system with one instance the set of 1 bits of control-1 only grows, and its bits 7
and 0 never change, whatever is requested and whatever fails. -/
def Obligations.RateBitsOnlyGrow : Prop :=
  ∀ s t : State, s.sound → s.alone → step s = .next t →
    t.alone ∧ t.dev.read s.params.ctrl1 &&& s.dev.read s.params.ctrl1 = s.dev.read s.params.ctrl1 ∧
    t.dev.read s.params.ctrl1 &&& 0x81 = s.dev.read s.params.ctrl1 &&& 0x81

/-- From R183 and R212 (decision D10, assumption 1): an instance whose operation runs phase by phase does to the
device, and answers, what the operation run whole does with the same transport outcomes and nobody acting meanwhile.
-/
def Obligations.PhasesAgreeWithTheWholeOperation : Prop :=
  ∀ (s u : State) (k : Nat) (x : Rival) (w : Request) (i : Instr) (t1 t2 : Transport),
    s.others[k]? = some x → x.phase = .idle → x.requests = [w] → decode w = .ok i →
    exec i { s with draws := [⟨[], t1⟩, ⟨[], t2⟩] } = .next u →
      ∃ (y : Rival) (r : Response), ((s.turn k t1).turn k t2).dev = u.dev ∧ u.responses = s.responses ++ [r] ∧
        ((s.turn k t1).turn k t2).others[k]? = some y ∧
        y = { requests := [], phase := .idle, responses := x.responses ++ [r] }
end

