-- ==== Sys2Proof/Laws/Codec.lean ====
section
/-! SUPPORT. The codec's functions bit by bit, and the bounds of the fields RBFC decodes. -/

namespace Sys2Proof.Machine

/-- Bit i of an extracted field is bit i + shift of the masked byte. -/
theorem fieldExtract_getLsbD (b m : Byte) (s : BitVec 3) (i : Nat) :
    (fieldExtract b m s).getLsbD i = (b.getLsbD (s.toNat + i) && m.getLsbD (s.toNat + i)) := by
  simp [fieldExtract]

/-- Bit i of an inserted field is bit i - shift of the value, where the mask has a 1. -/
theorem fieldInsert_getLsbD (v m : Byte) (s : BitVec 3) {i : Nat} (hi : i < 8) :
    (fieldInsert v m s).getLsbD i = (decide (s.toNat ≤ i) && v.getLsbD (i - s.toNat) && m.getLsbD i) := by
  by_cases h : s.toNat ≤ i
  · have h1 : ¬ i < s.toNat := by omega
    have h2 : i - s.toNat < 8 := by omega
    simp [fieldInsert, hi, h, h1, h2]
  · have h1 : i < s.toNat := by omega
    simp [fieldInsert, hi, h, h1]

/-- An extracted field is the masked byte divided by the shift's weight. -/
theorem fieldExtract_toNat (b m : Byte) (s : BitVec 3) :
    (fieldExtract b m s).toNat = (b.toNat &&& m.toNat) / 2 ^ s.toNat := by
  simp [fieldExtract, Nat.shiftRight_eq_div_pow]

/-- The defensive check of R120 cannot fire (R122). -/
theorem fullScale_code_le (b : Byte) : ¬ fieldExtract b fsMask fsShift > 3 := by
  revert b; decide

/-- Every byte decodes to a rate (R135). -/
theorem odrDecode_isSome (b : Byte) : (odrDecode b).isSome = true := by
  revert b; decide

/-- An undefined rate has no encoding (R131, R133). -/
theorem odrEncode_undefined {rate : Nat} (h : 12 ≤ rate) : odrEncode rate = none := by
  have h7 : ¬ rate ≤ 7 := by omega
  have h8 : (rate155 == rate) = false := beq_eq_false_iff_ne.2 (by unfold rate155; omega)
  have h9 : (rate300 == rate) = false := beq_eq_false_iff_ne.2 (by unfold rate300; omega)
  have h10 : (rate560 == rate) = false := beq_eq_false_iff_ne.2 (by unfold rate560; omega)
  have h11 : (rate1000 == rate) = false := beq_eq_false_iff_ne.2 (by unfold rate1000; omega)
  simp [odrEncode, normalRate, h7, modeOfRate, fastRates, List.find?, h8, h9, h10, h11]

/-- A rate that has an encoding is one of the twelve. -/
theorem le_of_odrEncode {rate : Nat} {e : Byte} (h : odrEncode rate = some e) : rate ≤ 11 := by
  by_contra hn
  rw [odrEncode_undefined (by omega)] at h
  cases h

end Sys2Proof.Machine
end

