-- ==== Sys2Proof/Laws/Decode.lean ====
section
/-! SUPPORT. The fields of a request word built from its fields, and the decoder in terms of them. -/

namespace Sys2Proof

@[simp] theorem requestWord_op (op : BitVec 4) (dv : Bool) (a b c : Byte) : (requestWord op dv a b c).op = op := by
  apply BitVec.eq_of_getLsbD_eq
  intro i hi
  simp only [requestWord, Request.op, BitVec.getLsbD_extractLsb', BitVec.getLsbD_append]
  interval_cases i <;> simp

@[simp] theorem requestWord_dv (op : BitVec 4) (dv : Bool) (a b c : Byte) :
    (requestWord op dv a b c).dv = BitVec.ofBool dv := by
  apply BitVec.eq_of_getLsbD_eq
  intro i hi
  simp only [requestWord, Request.dv, BitVec.getLsbD_extractLsb', BitVec.getLsbD_append]
  interval_cases i
  simp

@[simp] theorem requestWord_rsv (op : BitVec 4) (dv : Bool) (a b c : Byte) : (requestWord op dv a b c).rsv = 0 := by
  apply BitVec.eq_of_getLsbD_eq
  intro i hi
  simp only [requestWord, Request.rsv, BitVec.getLsbD_extractLsb', BitVec.getLsbD_append]
  interval_cases i <;> simp

@[simp] theorem requestWord_a (op : BitVec 4) (dv : Bool) (a b c : Byte) : (requestWord op dv a b c).a = a := by
  apply BitVec.eq_of_getLsbD_eq
  intro i hi
  simp only [requestWord, Request.a, BitVec.getLsbD_extractLsb', BitVec.getLsbD_append]
  interval_cases i <;> simp

@[simp] theorem requestWord_b (op : BitVec 4) (dv : Bool) (a b c : Byte) : (requestWord op dv a b c).b = b := by
  apply BitVec.eq_of_getLsbD_eq
  intro i hi
  simp only [requestWord, Request.b, BitVec.getLsbD_extractLsb', BitVec.getLsbD_append]
  interval_cases i <;> simp

@[simp] theorem requestWord_c (op : BitVec 4) (dv : Bool) (a b c : Byte) : (requestWord op dv a b c).c = c := by
  apply BitVec.eq_of_getLsbD_eq
  intro i hi
  simp only [requestWord, Request.c, BitVec.getLsbD_extractLsb', BitVec.getLsbD_append]
  interval_cases i <;> simp

/-- The shift amount is the low part of `C`. -/
theorem Request.shift_eq (w : Request) : w.shift = w.c.setWidth 3 := by
  apply BitVec.eq_of_getLsbD_eq
  intro i hi
  simp only [Request.shift, Request.c, BitVec.getLsbD_extractLsb', BitVec.getLsbD_setWidth]
  interval_cases i <;> simp

/-- A mask laid out as the fields are acts on each field. -/
theorem requestWord_and (op op' : BitVec 4) (dv : Bool) (dv' : BitVec 1) (rsv' : BitVec 3) (a a' b b' c c' : Byte) :
    requestWord op dv a b c &&& (op' ++ dv' ++ rsv' ++ a' ++ b' ++ c' : Request) =
      (op &&& op') ++ (BitVec.ofBool dv &&& dv') ++ (0 : BitVec 3) ++ (a &&& a') ++ (b &&& b') ++ (c &&& c') := by
  apply BitVec.eq_of_getLsbD_eq
  intro i hi
  simp only [requestWord, BitVec.getLsbD_and, BitVec.getLsbD_append]
  interval_cases i <;> simp

/-- Every word is its fields in their order. -/
theorem Request.eq_fields (w : Request) : w = (w.op ++ w.dv ++ w.rsv ++ w.a ++ w.b ++ w.c : BitVec 32) := by
  apply BitVec.eq_of_getLsbD_eq
  intro i hi
  simp only [Request.op, Request.dv, Request.rsv, Request.a, Request.b, Request.c, BitVec.getLsbD_append,
    BitVec.getLsbD_extractLsb']
  interval_cases i <;> simp

/-- A word is known by its fields. -/
theorem Request.ext_fields {v w : Request} (h1 : v.op = w.op) (h2 : v.dv = w.dv) (h3 : v.rsv = w.rsv) (h4 : v.a = w.a)
    (h5 : v.b = w.b) (h6 : v.c = w.c) : v = w := by
  rw [v.eq_fields, w.eq_fields, h1, h2, h3, h4, h5, h6]

/-- Whether a word matches under a mask can be told field by field. -/
theorem Request.and_eq_iff (w m v : Request) : w &&& m = v ↔
    w.op &&& m.op = v.op ∧ w.dv &&& m.dv = v.dv ∧ w.rsv &&& m.rsv = v.rsv ∧ w.a &&& m.a = v.a ∧ w.b &&& m.b = v.b ∧
      w.c &&& m.c = v.c := by
  constructor
  · rintro rfl
    simp only [Request.op, Request.dv, Request.rsv, Request.a, Request.b, Request.c, BitVec.extractLsb'_and, and_self]
  · rintro ⟨h1, h2, h3, h4, h5, h6⟩
    apply Request.ext_fields <;>
      simpa only [Request.op, Request.dv, Request.rsv, Request.a, Request.b, Request.c, BitVec.extractLsb'_and]

/-! ### The opcode map's rows, field by field -/

theorem and_allOnes4 (x : BitVec 4) : x &&& 15#4 = x := by revert x; decide
theorem and_allOnes1 (x : BitVec 1) : x &&& 1#1 = x := by revert x; decide
theorem and_allOnes3 (x : BitVec 3) : x &&& 7#3 = x := by revert x; decide
theorem and_allOnes8 (x : Byte) : x &&& 255#8 = x := by revert x; decide
theorem and_F8_iff (c : Byte) : c &&& 248#8 = 0#8 ↔ c.toNat ≤ 7 := by revert c; decide

/-- `Request.and_eq_iff` with the fields of the mask and of the match value named. -/
theorem Request.and_eq_iff_fields (w m v : Request) {o d r a b c o' d' r' a' b' c'}
    (hm : m.op = o ∧ m.dv = d ∧ m.rsv = r ∧ m.a = a ∧ m.b = b ∧ m.c = c)
    (hv : v.op = o' ∧ v.dv = d' ∧ v.rsv = r' ∧ v.a = a' ∧ v.b = b' ∧ v.c = c') : w &&& m = v ↔
    w.op &&& o = o' ∧ w.dv &&& d = d' ∧ w.rsv &&& r = r' ∧ w.a &&& a = a' ∧ w.b &&& b = b' ∧ w.c &&& c = c' := by
  obtain ⟨rfl, rfl, rfl, rfl, rfl, rfl⟩ := hm
  obtain ⟨rfl, rfl, rfl, rfl, rfl, rfl⟩ := hv
  exact Request.and_eq_iff w m v

theorem selects_extract (w : Request) : (w &&& 0xFF0000F8 = 0x00000000) ↔
    w.op = 0x0 ∧ w.dv = 0 ∧ w.rsv = 0 ∧ w.c.toNat ≤ 7 := by
  rw [Request.and_eq_iff_fields w 0xFF0000F8 0x00000000
    (o := 15#4) (d := 1#1) (r := 7#3) (a := 0#8) (b := 0#8) (c := 248#8)
    (o' := 0#4) (d' := 0#1) (r' := 0#3) (a' := 0#8) (b' := 0#8) (c' := 0#8) (by decide) (by decide)]
  simp [and_allOnes4, and_allOnes3, and_allOnes1, and_F8_iff]

theorem selects_insert (w : Request) : (w &&& 0xFF0000F8 = 0x10000000) ↔
    w.op = 0x1 ∧ w.dv = 0 ∧ w.rsv = 0 ∧ w.c.toNat ≤ 7 := by
  rw [Request.and_eq_iff_fields w 0xFF0000F8 0x10000000
    (o := 15#4) (d := 1#1) (r := 7#3) (a := 0#8) (b := 0#8) (c := 248#8)
    (o' := 1#4) (d' := 0#1) (r' := 0#3) (a' := 0#8) (b' := 0#8) (c' := 0#8) (by decide) (by decide)]
  simp [and_allOnes4, and_allOnes3, and_allOnes1, and_F8_iff]

theorem selects_odrenc (w : Request) : (w &&& 0xFF00FFFF = 0x20000000) ↔
    w.op = 0x2 ∧ w.dv = 0 ∧ w.rsv = 0 ∧ w.b = 0 ∧ w.c = 0 := by
  rw [Request.and_eq_iff_fields w 0xFF00FFFF 0x20000000
    (o := 15#4) (d := 1#1) (r := 7#3) (a := 0#8) (b := 255#8) (c := 255#8)
    (o' := 2#4) (d' := 0#1) (r' := 0#3) (a' := 0#8) (b' := 0#8) (c' := 0#8) (by decide) (by decide)]
  simp [and_allOnes4, and_allOnes3, and_allOnes1, and_allOnes8]

theorem selects_odrdec (w : Request) : (w &&& 0xFF00FFFF = 0x30000000) ↔
    w.op = 0x3 ∧ w.dv = 0 ∧ w.rsv = 0 ∧ w.b = 0 ∧ w.c = 0 := by
  rw [Request.and_eq_iff_fields w 0xFF00FFFF 0x30000000
    (o := 15#4) (d := 1#1) (r := 7#3) (a := 0#8) (b := 255#8) (c := 255#8)
    (o' := 3#4) (d' := 0#1) (r' := 0#3) (a' := 0#8) (b' := 0#8) (c' := 0#8) (by decide) (by decide)]
  simp [and_allOnes4, and_allOnes3, and_allOnes1, and_allOnes8]

theorem selects_asm16 (w : Request) : (w &&& 0xFF0000FF = 0x40000000) ↔
    w.op = 0x4 ∧ w.dv = 0 ∧ w.rsv = 0 ∧ w.c = 0 := by
  rw [Request.and_eq_iff_fields w 0xFF0000FF 0x40000000
    (o := 15#4) (d := 1#1) (r := 7#3) (a := 0#8) (b := 0#8) (c := 255#8)
    (o' := 4#4) (d' := 0#1) (r' := 0#3) (a' := 0#8) (b' := 0#8) (c' := 0#8) (by decide) (by decide)]
  simp [and_allOnes4, and_allOnes3, and_allOnes1, and_allOnes8]

theorem selects_getfs (w : Request) : (w &&& 0xF7FFFFFF = 0x80000000) ↔
    w.op = 0x8 ∧ w.rsv = 0 ∧ w.a = 0 ∧ w.b = 0 ∧ w.c = 0 := by
  rw [Request.and_eq_iff_fields w 0xF7FFFFFF 0x80000000
    (o := 15#4) (d := 0#1) (r := 7#3) (a := 255#8) (b := 255#8) (c := 255#8)
    (o' := 8#4) (d' := 0#1) (r' := 0#3) (a' := 0#8) (b' := 0#8) (c' := 0#8) (by decide) (by decide)]
  simp [and_allOnes4, and_allOnes3, and_allOnes8]

theorem selects_setodr (w : Request) : (w &&& 0xFF00FFFF = 0x90000000) ↔
    w.op = 0x9 ∧ w.dv = 0 ∧ w.rsv = 0 ∧ w.b = 0 ∧ w.c = 0 := by
  rw [Request.and_eq_iff_fields w 0xFF00FFFF 0x90000000
    (o := 15#4) (d := 1#1) (r := 7#3) (a := 0#8) (b := 255#8) (c := 255#8)
    (o' := 9#4) (d' := 0#1) (r' := 0#3) (a' := 0#8) (b' := 0#8) (c' := 0#8) (by decide) (by decide)]
  simp [and_allOnes4, and_allOnes3, and_allOnes1, and_allOnes8]

theorem selects_getodr (w : Request) : (w &&& 0xF7FFFFFF = 0xA0000000) ↔
    w.op = 0xA ∧ w.rsv = 0 ∧ w.a = 0 ∧ w.b = 0 ∧ w.c = 0 := by
  rw [Request.and_eq_iff_fields w 0xF7FFFFFF 0xA0000000
    (o := 15#4) (d := 0#1) (r := 7#3) (a := 255#8) (b := 255#8) (c := 255#8)
    (o' := 10#4) (d' := 0#1) (r' := 0#3) (a' := 0#8) (b' := 0#8) (c' := 0#8) (by decide) (by decide)]
  simp [and_allOnes4, and_allOnes3, and_allOnes8]

theorem selects_intpin (w : Request) : (w &&& 0xFF00FFFF = 0xB0000000) ↔
    w.op = 0xB ∧ w.dv = 0 ∧ w.rsv = 0 ∧ w.b = 0 ∧ w.c = 0 := by
  rw [Request.and_eq_iff_fields w 0xFF00FFFF 0xB0000000
    (o := 15#4) (d := 1#1) (r := 7#3) (a := 0#8) (b := 255#8) (c := 255#8)
    (o' := 11#4) (d' := 0#1) (r' := 0#3) (a' := 0#8) (b' := 0#8) (c' := 0#8) (by decide) (by decide)]
  simp [and_allOnes4, and_allOnes3, and_allOnes1, and_allOnes8]

theorem selects_rdaxis (w : Request) : (w &&& 0xF700FFFF = 0xC0000000) ↔
    w.op = 0xC ∧ w.rsv = 0 ∧ w.b = 0 ∧ w.c = 0 := by
  rw [Request.and_eq_iff_fields w 0xF700FFFF 0xC0000000
    (o := 15#4) (d := 0#1) (r := 7#3) (a := 0#8) (b := 255#8) (c := 255#8)
    (o' := 12#4) (d' := 0#1) (r' := 0#3) (a' := 0#8) (b' := 0#8) (c' := 0#8) (by decide) (by decide)]
  simp [and_allOnes4, and_allOnes3, and_allOnes8]

@[simp] theorem tryRows_nil (w : Request) : tryRows w [] = .error (rejectReason w) := rfl

theorem tryRows_cons (w : Request) (r : Row) (rows : List Row) : tryRows w (r :: rows) =
    if w &&& r.mask = r.value then .ok (r.build w) else tryRows w rows := by
  simp [tryRows, Row.selects]

/-- The decoder, row by row in terms of the fields. -/
theorem decode_eq (w : Request) : decode w =
    if w.op = 0x0 ∧ w.dv = 0 ∧ w.rsv = 0 ∧ w.c.toNat ≤ 7 then .ok (.extract w.a w.b w.shift)
    else if w.op = 0x1 ∧ w.dv = 0 ∧ w.rsv = 0 ∧ w.c.toNat ≤ 7 then .ok (.insert w.a w.b w.shift)
    else if w.op = 0x2 ∧ w.dv = 0 ∧ w.rsv = 0 ∧ w.b = 0 ∧ w.c = 0 then .ok (.odrenc w.a.toNat)
    else if w.op = 0x3 ∧ w.dv = 0 ∧ w.rsv = 0 ∧ w.b = 0 ∧ w.c = 0 then .ok (.odrdec w.a)
    else if w.op = 0x4 ∧ w.dv = 0 ∧ w.rsv = 0 ∧ w.c = 0 then .ok (.asm16 w.a w.b)
    else if w.op = 0x8 ∧ w.rsv = 0 ∧ w.a = 0 ∧ w.b = 0 ∧ w.c = 0 then .ok (.getfs w.destination)
    else if w.op = 0x9 ∧ w.dv = 0 ∧ w.rsv = 0 ∧ w.b = 0 ∧ w.c = 0 then .ok (.setodr w.a.toNat)
    else if w.op = 0xA ∧ w.rsv = 0 ∧ w.a = 0 ∧ w.b = 0 ∧ w.c = 0 then .ok (.getodr w.destination)
    else if w.op = 0xB ∧ w.dv = 0 ∧ w.rsv = 0 ∧ w.b = 0 ∧ w.c = 0 then .ok (.intpin w.a.toNat)
    else if w.op = 0xC ∧ w.rsv = 0 ∧ w.b = 0 ∧ w.c = 0 then .ok (.rdaxis w.destination w.a.toNat)
    else .error (rejectReason w) := by
  simp only [decode, opcodeMap, tryRows_cons, tryRows_nil, selects_extract, selects_insert, selects_odrenc,
    selects_odrdec, selects_asm16, selects_getfs, selects_setodr, selects_getodr, selects_intpin, selects_rdaxis]

end Sys2Proof
end

