-- ==== Sys2Proof/Laws/Memory.lean ====
section
/-! SUPPORT. The laws of the device's byte registers: read after write, and that a write keeps the canonical form. -/

namespace Sys2Proof.Machine.Memory

theorem lookup_erase_same (m : Memory) (n : Nat) : lookup (erase m n) n = unlisted := by
  induction m with
  | nil => rfl
  | cons c m ih =>
    obtain ⟨k, b⟩ := c
    by_cases h : k = n
    · simpa [erase, h] using ih
    · have : erase ((k, b) :: m) n = (k, b) :: erase m n := by simp [erase, h]
      simp [this, lookup, h, ih]

theorem lookup_erase_other (m : Memory) {n j : Nat} (h : j ≠ n) : lookup (erase m n) j = lookup m j := by
  induction m with
  | nil => rfl
  | cons c m ih =>
    obtain ⟨k, b⟩ := c
    by_cases hk : k = n
    · have e : erase ((k, b) :: m) n = erase m n := by simp [erase, hk]
      have hj : k ≠ j := fun e => h (e.symm.trans hk)
      simp [e, lookup, hj, ih]
    · have e : erase ((k, b) :: m) n = (k, b) :: erase m n := by simp [erase, hk]
      simp [e, lookup, ih]

theorem lookup_place_same (m : Memory) (n : Nat) (b : Byte) (h : ∀ c ∈ m, c.1 ≠ n) : lookup (place m n b) n = b := by
  induction m with
  | nil => simp [place, lookup]
  | cons c m ih =>
    obtain ⟨k, x⟩ := c
    have hk : k ≠ n := h (k, x) (by simp)
    by_cases hlt : n < k
    · simp [place, hlt, lookup]
    · simp [place, hlt, lookup, hk, ih fun c hc => h c (by simp [hc])]

theorem lookup_place_other (m : Memory) {n j : Nat} (b : Byte) (h : j ≠ n) :
    lookup (place m n b) j = lookup m j := by
  induction m with
  | nil => simp [place, lookup, h.symm]
  | cons c m ih =>
    obtain ⟨k, x⟩ := c
    by_cases hlt : n < k
    · simp [place, hlt, lookup, h.symm]
    · simp [place, hlt, lookup, ih]

theorem ne_of_mem_erase {m : Memory} {n : Nat} : ∀ c ∈ erase m n, c.1 ≠ n := by
  intro c hc
  simpa [erase] using (List.mem_filter.1 hc).2

/-- A read of the address just written gives the byte written. -/
@[simp] theorem read_write_same (m : Memory) (a b : Byte) : (write m a b).read a = b := by
  unfold read write
  split
  · next h => rw [lookup_erase_same, h]
  · exact lookup_place_same _ _ _ ne_of_mem_erase

/-- A write leaves every other address as it was. -/
theorem read_write_other (m : Memory) {a c : Byte} (b : Byte) (h : c ≠ a) : (write m a b).read c = m.read c := by
  have hn : c.toNat ≠ a.toNat := fun e => h (BitVec.eq_of_toNat_eq e)
  unfold read write
  split
  · exact lookup_erase_other m hn
  · rw [lookup_place_other _ b hn, lookup_erase_other m hn]

theorem read_write (m : Memory) (a b c : Byte) : (write m a b).read c = if c = a then b else m.read c := by
  split
  · next h => rw [h, read_write_same]
  · next h => exact read_write_other m b h

@[simp] theorem read_nil (a : Byte) : read [] a = unlisted := rfl

theorem erase_wf {m : Memory} (n : Nat) (h : m.wf) : (erase m n).wf :=
  ⟨h.1.filter _, fun c hc => h.2 c (List.mem_filter.1 hc).1⟩

theorem mem_place {m : Memory} {n : Nat} {b : Byte} {c : Host.Cell} :
    c ∈ place m n b ↔ c = (n, b) ∨ c ∈ m := by
  induction m with
  | nil => simp [place]
  | cons d m ih =>
    obtain ⟨k, x⟩ := d
    by_cases hlt : n < k
    · simp [place, hlt]
    · simp only [place, hlt, if_false, List.mem_cons, ih]
      tauto

theorem place_wf {m : Memory} {n : Nat} {b : Byte} (h : m.wf) (hn : n < 256) (hb : b ≠ unlisted)
    (hm : ∀ c ∈ m, c.1 ≠ n) : (place m n b).wf := by
  refine ⟨?_, fun c hc => ?_⟩
  · obtain ⟨hs, -⟩ := h
    induction m with
    | nil => simp [place]
    | cons d m ih =>
      obtain ⟨k, x⟩ := d
      have hk : k ≠ n := hm (k, x) (by simp)
      obtain ⟨h1, h2⟩ := List.pairwise_cons.1 hs
      by_cases hlt : n < k
      · simp only [place, hlt, if_true]
        refine List.pairwise_cons.2 ⟨fun c hc => ?_, hs⟩
        rcases List.mem_cons.1 hc with rfl | hc
        · exact hlt
        · exact Nat.lt_trans hlt (h1 c hc)
      · simp only [place, hlt, if_false]
        refine List.pairwise_cons.2 ⟨fun c hc => ?_, ih (fun c hc => hm c (by simp [hc])) h2⟩
        rcases mem_place.1 hc with rfl | hc
        · simp only; omega
        · exact h1 c hc
  · rcases mem_place.1 hc with rfl | hc
    · exact ⟨hn, hb⟩
    · exact h.2 c hc

/-- Every write keeps the canonical form. -/
theorem write_wf {m : Memory} (a b : Byte) (h : m.wf) : (write m a b).wf := by
  unfold write
  split
  · exact erase_wf _ h
  · next hb => exact place_wf (erase_wf _ h) (by simpa using a.isLt) hb ne_of_mem_erase

end Sys2Proof.Machine.Memory
end

