-- ==== Sys2Proof/Laws/State.lean ====
section
/-! SUPPORT. One lemma for each field of `State` under each named update, true by `rfl`. -/

namespace Sys2Proof.Machine

/-! ### `State.respond` -/

@[simp] theorem State.respond_params (s : State) (r : Response) : (s.respond r).params = s.params := rfl
@[simp] theorem State.respond_dev (s : State) (r : Response) : (s.respond r).dev = s.dev := rfl
@[simp] theorem State.respond_requests (s : State) (r : Response) : (s.respond r).requests = s.requests := rfl
@[simp] theorem State.respond_responses (s : State) (r : Response) : (s.respond r).responses = s.responses ++ [r] := rfl
@[simp] theorem State.respond_log (s : State) (r : Response) : (s.respond r).log = s.log := rfl
@[simp] theorem State.respond_others (s : State) (r : Response) : (s.respond r).others = s.others := rfl
@[simp] theorem State.respond_draws (s : State) (r : Response) : (s.respond r).draws = s.draws := rfl
@[simp] theorem State.respond_drawn (s : State) (r : Response) : (s.respond r).drawn = s.drawn := rfl

/-! ### `State.takeDraw` -/

@[simp] theorem State.takeDraw_params (s : State) : s.takeDraw.params = s.params := rfl
@[simp] theorem State.takeDraw_dev (s : State) : s.takeDraw.dev = s.dev := rfl
@[simp] theorem State.takeDraw_requests (s : State) : s.takeDraw.requests = s.requests := rfl
@[simp] theorem State.takeDraw_responses (s : State) : s.takeDraw.responses = s.responses := rfl
@[simp] theorem State.takeDraw_log (s : State) : s.takeDraw.log = s.log := rfl
@[simp] theorem State.takeDraw_others (s : State) : s.takeDraw.others = s.others := rfl
@[simp] theorem State.takeDraw_draws (s : State) : s.takeDraw.draws = s.draws.tail := rfl
@[simp] theorem State.takeDraw_drawn (s : State) : s.takeDraw.drawn = s.drawn + 1 := rfl

/-! ### `State.record` -/

@[simp] theorem State.record_params (s : State) (who : Master) (c : BusCall) : (s.record who c).params = s.params := rfl
@[simp] theorem State.record_dev (s : State) (who : Master) (c : BusCall) : (s.record who c).dev = s.dev := rfl
@[simp] theorem State.record_requests (s : State) (who : Master) (c : BusCall) : (s.record who c).requests = s.requests := rfl
@[simp] theorem State.record_responses (s : State) (who : Master) (c : BusCall) : (s.record who c).responses = s.responses := rfl
@[simp] theorem State.record_log (s : State) (who : Master) (c : BusCall) : (s.record who c).log = s.log ++ [{ who := who, devAddr := s.params.devAddr, call := c }] := rfl
@[simp] theorem State.record_others (s : State) (who : Master) (c : BusCall) : (s.record who c).others = s.others := rfl
@[simp] theorem State.record_draws (s : State) (who : Master) (c : BusCall) : (s.record who c).draws = s.draws := rfl
@[simp] theorem State.record_drawn (s : State) (who : Master) (c : BusCall) : (s.record who c).drawn = s.drawn := rfl

/-! ### `State.setDev` -/

@[simp] theorem State.setDev_params (s : State) (m : Memory) : (s.setDev m).params = s.params := rfl
@[simp] theorem State.setDev_dev (s : State) (m : Memory) : (s.setDev m).dev = m := rfl
@[simp] theorem State.setDev_requests (s : State) (m : Memory) : (s.setDev m).requests = s.requests := rfl
@[simp] theorem State.setDev_responses (s : State) (m : Memory) : (s.setDev m).responses = s.responses := rfl
@[simp] theorem State.setDev_log (s : State) (m : Memory) : (s.setDev m).log = s.log := rfl
@[simp] theorem State.setDev_others (s : State) (m : Memory) : (s.setDev m).others = s.others := rfl
@[simp] theorem State.setDev_draws (s : State) (m : Memory) : (s.setDev m).draws = s.draws := rfl
@[simp] theorem State.setDev_drawn (s : State) (m : Memory) : (s.setDev m).drawn = s.drawn := rfl

/-! ### `State.setRival` -/

@[simp] theorem State.setRival_params (s : State) (k : Nat) (x : Rival) : (s.setRival k x).params = s.params := rfl
@[simp] theorem State.setRival_dev (s : State) (k : Nat) (x : Rival) : (s.setRival k x).dev = s.dev := rfl
@[simp] theorem State.setRival_requests (s : State) (k : Nat) (x : Rival) : (s.setRival k x).requests = s.requests := rfl
@[simp] theorem State.setRival_responses (s : State) (k : Nat) (x : Rival) : (s.setRival k x).responses = s.responses := rfl
@[simp] theorem State.setRival_log (s : State) (k : Nat) (x : Rival) : (s.setRival k x).log = s.log := rfl
@[simp] theorem State.setRival_others (s : State) (k : Nat) (x : Rival) : (s.setRival k x).others = s.others.set k x := rfl
@[simp] theorem State.setRival_draws (s : State) (k : Nat) (x : Rival) : (s.setRival k x).draws = s.draws := rfl
@[simp] theorem State.setRival_drawn (s : State) (k : Nat) (x : Rival) : (s.setRival k x).drawn = s.drawn := rfl

/-! ### `State.popRequest` -/

@[simp] theorem State.popRequest_params (s : State) : s.popRequest.params = s.params := rfl
@[simp] theorem State.popRequest_dev (s : State) : s.popRequest.dev = s.dev := rfl
@[simp] theorem State.popRequest_requests (s : State) : s.popRequest.requests = s.requests.tail := rfl
@[simp] theorem State.popRequest_responses (s : State) : s.popRequest.responses = s.responses := rfl
@[simp] theorem State.popRequest_log (s : State) : s.popRequest.log = s.log := rfl
@[simp] theorem State.popRequest_others (s : State) : s.popRequest.others = s.others := rfl
@[simp] theorem State.popRequest_draws (s : State) : s.popRequest.draws = s.draws := rfl
@[simp] theorem State.popRequest_drawn (s : State) : s.popRequest.drawn = s.drawn := rfl

/-! ### `State.pushRequest` -/

@[simp] theorem State.pushRequest_params (s : State) (w : Request) : (s.pushRequest w).params = s.params := rfl
@[simp] theorem State.pushRequest_dev (s : State) (w : Request) : (s.pushRequest w).dev = s.dev := rfl
@[simp] theorem State.pushRequest_requests (s : State) (w : Request) : (s.pushRequest w).requests = w :: s.requests := rfl
@[simp] theorem State.pushRequest_responses (s : State) (w : Request) : (s.pushRequest w).responses = s.responses := rfl
@[simp] theorem State.pushRequest_log (s : State) (w : Request) : (s.pushRequest w).log = s.log := rfl
@[simp] theorem State.pushRequest_others (s : State) (w : Request) : (s.pushRequest w).others = s.others := rfl
@[simp] theorem State.pushRequest_draws (s : State) (w : Request) : (s.pushRequest w).draws = s.draws := rfl
@[simp] theorem State.pushRequest_drawn (s : State) (w : Request) : (s.pushRequest w).drawn = s.drawn := rfl

/-! ### `Rival.respond` and `Rival.popRequest` -/

@[simp] theorem Rival.respond_requests (x : Rival) (r : Response) : (x.respond r).requests = x.requests := rfl
@[simp] theorem Rival.respond_phase (x : Rival) (r : Response) : (x.respond r).phase = .idle := rfl
@[simp] theorem Rival.respond_responses (x : Rival) (r : Response) : (x.respond r).responses = x.responses ++ [r] := rfl
@[simp] theorem Rival.popRequest_requests (x : Rival) : x.popRequest.requests = x.requests.tail := rfl
@[simp] theorem Rival.popRequest_phase (x : Rival) : x.popRequest.phase = x.phase := rfl
@[simp] theorem Rival.popRequest_responses (x : Rival) : x.popRequest.responses = x.responses := rfl

end Sys2Proof.Machine
end

