-- ==== Sys2Proof/Laws/Ops.lean ====
section
/-! SUPPORT. What the bus primitives and the end of an operation can do. -/

namespace Sys2Proof.Machine

/-! ### The draws -/

@[simp] theorem State.nextDraw_cons {s : State} {d : Draw} {l : List Draw} (h : s.draws = d :: l) : s.nextDraw = d := by
  simp [State.nextDraw, h]

@[simp] theorem State.nextTransport_cons {s : State} {d : Draw} {l : List Draw} (h : s.draws = d :: l) :
    s.nextTransport = d.transport := by
  simp [State.nextTransport, State.nextDraw, h]

/-! ### Reading -/

@[simp] theorem State.bytesAt_length (s : State) (a : Byte) (n : Nat) : (s.bytesAt a n).length = n := by
  simp [State.bytesAt]

@[simp] theorem State.bytesAt_one (s : State) (a : Byte) : s.bytesAt a 1 = [s.dev.read a] := by
  simp [State.bytesAt, List.range_succ]

@[simp] theorem State.bytesAt_two (s : State) (a : Byte) : s.bytesAt a 2 = [s.dev.read a, s.dev.read (a + 1)] := by
  simp [State.bytesAt, List.range_succ]

@[simp] theorem byteAt_zero (b : Byte) (r : List Byte) : byteAt (b :: r) 0 = b := rfl
@[simp] theorem byteAt_one (b c : Byte) (r : List Byte) : byteAt (b :: c :: r) 1 = c := rfl

theorem State.readResult_ok {s : State} {a : Byte} {n : Nat} {t : Transport} (h : t.ok = true) :
    s.readResult a n t = some (s.bytesAt a n) := by simp [State.readResult, h]

theorem State.readResult_fail {s : State} {a : Byte} {n : Nat} {t : Transport} (h : t.ok = false) :
    s.readResult a n t = none := by simp [State.readResult, h]

/-- A read changes nothing but the record of transactions. -/
theorem State.memRead_eq (s : State) (who : Master) (a : Byte) (n : Nat) (t : Transport) :
    s.memRead who a n t = (s.record who (.read a n (s.readResult a n t)), s.readResult a n t) := rfl

/-- A read's bytes are as many as asked for. -/
theorem State.readResult_length {s : State} {a : Byte} {n : Nat} {t : Transport} {r : List Byte}
    (h : s.readResult a n t = some r) : r.length = n := by
  unfold State.readResult at h
  split at h
  · rw [← Option.some.inj h, State.bytesAt_length]
  · cases h

/-! ### Writing -/

@[simp] theorem State.memWrite_result (s : State) (who : Master) (a b : Byte) (t : Transport) :
    (s.memWrite who a b t).2 = t.ok := rfl

@[simp] theorem State.memWrite_dev (s : State) (who : Master) (a b : Byte) (t : Transport) :
    (s.memWrite who a b t).1.dev = if t.ok || t.landed then s.dev.write a b else s.dev := by
  simp only [State.memWrite, State.record_dev]
  split <;> rfl

@[simp] theorem State.memWrite_params (s : State) (who : Master) (a b : Byte) (t : Transport) :
    (s.memWrite who a b t).1.params = s.params := by
  simp only [State.memWrite, State.record_params]; split <;> rfl

@[simp] theorem State.memWrite_requests (s : State) (who : Master) (a b : Byte) (t : Transport) :
    (s.memWrite who a b t).1.requests = s.requests := by
  simp only [State.memWrite, State.record_requests]; split <;> rfl

@[simp] theorem State.memWrite_responses (s : State) (who : Master) (a b : Byte) (t : Transport) :
    (s.memWrite who a b t).1.responses = s.responses := by
  simp only [State.memWrite, State.record_responses]; split <;> rfl

@[simp] theorem State.memWrite_log (s : State) (who : Master) (a b : Byte) (t : Transport) :
    (s.memWrite who a b t).1.log =
      s.log ++ [{ who := who, devAddr := s.params.devAddr, call := .write a [b] t.ok }] := by
  simp only [State.memWrite, State.record_log]; split <;> rfl

@[simp] theorem State.memWrite_others (s : State) (who : Master) (a b : Byte) (t : Transport) :
    (s.memWrite who a b t).1.others = s.others := by
  simp only [State.memWrite, State.record_others]; split <;> rfl

@[simp] theorem State.memWrite_draws (s : State) (who : Master) (a b : Byte) (t : Transport) :
    (s.memWrite who a b t).1.draws = s.draws := by
  simp only [State.memWrite, State.record_draws]; split <;> rfl

@[simp] theorem State.memWrite_drawn (s : State) (who : Master) (a b : Byte) (t : Transport) :
    (s.memWrite who a b t).1.drawn = s.drawn := by
  simp only [State.memWrite, State.record_drawn]; split <;> rfl

end Sys2Proof.Machine
end

