-- ==== Sys2Proof/Laws/Interleave.lean ====
section
/-! SUPPORT. What the other agents can change, the ways an operation can run, and the one step in terms of them. -/

namespace Sys2Proof.Machine

/-! ### What another agent's action leaves alone -/

/-- `t` differs from `s` only in what the other agents can change: the device's registers, the record of transactions
and the other instances. -/
structure SameInstance (s t : State) : Prop where
  params : t.params = s.params
  requests : t.requests = s.requests
  responses : t.responses = s.responses
  draws : t.draws = s.draws
  drawn : t.drawn = s.drawn

theorem SameInstance.refl (s : State) : SameInstance s s := ⟨rfl, rfl, rfl, rfl, rfl⟩

theorem SameInstance.trans {s t u : State} (h : SameInstance s t) (k : SameInstance t u) : SameInstance s u :=
  ⟨k.params.trans h.params, k.requests.trans h.requests, k.responses.trans h.responses, k.draws.trans h.draws,
    k.drawn.trans h.drawn⟩

theorem finish_sameInstance (s : State) (who : Master) (x : AfterRead) (t : Transport) :
    SameInstance s (s.finish who x t).1 := by
  cases x <;> constructor <;> simp [State.finish]

theorem rivalBegin_sameInstance (s : State) (k : Nat) (x : Rival) (i : Instr) (t : Transport) :
    SameInstance s (s.rivalBegin k x i t) := by
  unfold State.rivalBegin
  split
  · constructor <;> rfl
  · simp only [State.memRead_eq]
    cases s.readResult _ _ t <;> constructor <;> rfl

theorem rivalFinish_sameInstance (s : State) (k : Nat) (x : Rival) (i : Instr) (r : List Byte) (t : Transport) :
    SameInstance s (s.rivalFinish k x i r t) :=
  (finish_sameInstance s (.other k) _ t).trans (by constructor <;> rfl)

theorem turn_sameInstance (s : State) (k : Nat) (t : Transport) : SameInstance s (s.turn k t) := by
  unfold State.turn
  split
  · exact .refl s
  · split
    · exact rivalFinish_sameInstance ..
    · exact .refl s
    · split
      · constructor <;> rfl
      · exact rivalBegin_sameInstance ..

theorem act_sameInstance (s : State) (x : Action) : SameInstance s (s.act x) := by
  cases x with
  | measure a b => simp only [State.act]; split <;> constructor <;> rfl
  | write a b => simp only [State.act]; split <;> constructor <;> rfl
  | turn k t => exact turn_sameInstance s k t

theorem actAll_sameInstance (l : List Action) (s : State) : SameInstance s (s.actAll l) := by
  induction l generalizing s with
  | nil => exact .refl s
  | cons x l ih => exact (act_sameInstance s x).trans (ih _)

@[simp] theorem State.othersAct_params (s : State) : s.othersAct.params = s.params :=
  (actAll_sameInstance _ _).params

@[simp] theorem State.othersAct_requests (s : State) : s.othersAct.requests = s.requests :=
  (actAll_sameInstance _ _).requests

@[simp] theorem State.othersAct_responses (s : State) : s.othersAct.responses = s.responses :=
  (actAll_sameInstance _ _).responses

@[simp] theorem State.othersAct_draws (s : State) : s.othersAct.draws = s.draws.tail := (actAll_sameInstance _ _).draws

@[simp] theorem State.othersAct_drawn (s : State) : s.othersAct.drawn = s.drawn + 1 := (actAll_sameInstance _ _).drawn

@[simp] theorem State.actAll_nil (s : State) : s.actAll [] = s := rfl

@[simp] theorem State.actAll_cons (s : State) (x : Action) (l : List Action) : s.actAll (x :: l) = (s.act x).actAll l := rfl

/-- Where the draw says that nobody acts, only the draw is used up. -/
theorem State.othersAct_of_none {s : State} (h : s.nextDraw.before = []) : s.othersAct = s.takeDraw := by
  simp [State.othersAct, h]

/-! ### The record of transactions only grows, and the other agents add nothing under this instance's name -/

/-- `t`'s record is `s`'s with transactions of other masters after it. -/
def AddsOnlyOthers (s t : State) : Prop := ∃ l, t.log = s.log ++ l ∧ ∀ x ∈ l, x.who ≠ .self

theorem AddsOnlyOthers.of_eq {s t : State} (h : t.log = s.log) : AddsOnlyOthers s t := ⟨[], by simp [h], by simp⟩

theorem AddsOnlyOthers.trans {s t u : State} (h : AddsOnlyOthers s t) (k : AddsOnlyOthers t u) : AddsOnlyOthers s u := by
  obtain ⟨l, hl, hm⟩ := h
  obtain ⟨l', hl', hm'⟩ := k
  refine ⟨l ++ l', by simp [hl', hl], fun x hx => ?_⟩
  rcases List.mem_append.1 hx with hx | hx
  · exact hm x hx
  · exact hm' x hx

theorem finish_addsOnlyOthers (s : State) (k : Nat) (x : AfterRead) (t : Transport) :
    AddsOnlyOthers s (s.finish (.other k) x t).1 := by
  cases x with
  | answer r => exact .of_eq rfl
  | write a b => exact ⟨_, State.memWrite_log .., by simp⟩

theorem rivalBegin_addsOnlyOthers (s : State) (k : Nat) (x : Rival) (i : Instr) (t : Transport) :
    AddsOnlyOthers s (s.rivalBegin k x i t) := by
  unfold State.rivalBegin
  split
  · exact .of_eq rfl
  · simp only [State.memRead_eq]
    cases s.readResult _ _ t <;> exact ⟨_, rfl, by simp⟩

theorem turn_addsOnlyOthers (s : State) (k : Nat) (t : Transport) : AddsOnlyOthers s (s.turn k t) := by
  unfold State.turn
  split
  · exact .of_eq rfl
  · split
    · exact (finish_addsOnlyOthers s k _ t).trans (.of_eq rfl)
    · exact .of_eq rfl
    · split
      · exact .of_eq rfl
      · exact rivalBegin_addsOnlyOthers ..

theorem act_addsOnlyOthers (s : State) (x : Action) : AddsOnlyOthers s (s.act x) := by
  cases x with
  | measure a b => simp only [State.act]; split <;> exact .of_eq rfl
  | write a b =>
    simp only [State.act]
    split
    · exact .of_eq rfl
    · exact ⟨_, rfl, by simp⟩
  | turn k t => exact turn_addsOnlyOthers s k t

theorem actAll_addsOnlyOthers (l : List Action) (s : State) : AddsOnlyOthers s (s.actAll l) := by
  induction l generalizing s with
  | nil => exact .of_eq rfl
  | cons x l ih => exact (act_addsOnlyOthers s x).trans (ih _)

theorem othersAct_addsOnlyOthers (s : State) : AddsOnlyOthers s s.othersAct :=
  actAll_addsOnlyOthers _ s.takeDraw

/-- The other agents add nothing to the calls of the instance under study. -/
@[simp] theorem State.othersAct_ownCalls (s : State) : s.othersAct.ownCalls = s.ownCalls := by
  obtain ⟨l, hl, hm⟩ := othersAct_addsOnlyOthers s
  have : l.filter (fun t => t.who == .self) = [] := by
    rw [List.filter_eq_nil_iff]
    intro x hx
    simpa using hm x hx
  simp [State.ownCalls, hl, this]

@[simp] theorem State.record_self_ownCalls (s : State) (c : BusCall) :
    (s.record .self c).ownCalls = s.ownCalls ++ [c] := by simp [State.ownCalls]

@[simp] theorem State.respond_ownCalls (s : State) (r : Response) : (s.respond r).ownCalls = s.ownCalls := rfl

@[simp] theorem State.memWrite_self_ownCalls (s : State) (a b : Byte) (t : Transport) :
    (s.memWrite .self a b t).1.ownCalls = s.ownCalls ++ [.write a [b] t.ok] := by simp [State.ownCalls]

@[simp] theorem State.respond_lastResponse (s : State) (r : Response) : (s.respond r).lastResponse = some r := by
  simp [State.lastResponse]

/-! ### Running an operation -/

/-- Every operation's meaning is its rule, run among the other agents. -/
theorem exec_eq_run (i : Instr) (s : State) : exec i s = .next (s.run (ruleOf i)) := by cases i <;> rfl

/-- The two ways an operation completes after a successful read. -/
theorem State.complete_answer (s : State) (r : Response) : s.complete (.answer r) = s.respond r := rfl

theorem State.complete_write (s : State) (a b : Byte) :
    s.complete (.write a b) =
      (s.othersAct.memWrite .self a b s.nextTransport).1.respond (writeResponse s.nextTransport.ok) := rfl

/-- An operation that answers without a bus access. -/
theorem State.run_answer {s : State} {rule : Params → Rule} {r : Response} (h : rule s.params = .answer r) :
    s.run rule = s.respond r := by simp [State.run, h]

/-- An operation whose read fails. -/
theorem State.run_readFails {s : State} {rule : Params → Rule} {a : Byte} {n : Nat} {next : List Byte → AfterRead}
    (h : rule s.params = .read a n next) (ht : s.nextTransport.ok = false) :
    s.run rule = (s.othersAct.record .self (.read a n none)).respond (.busError .readFailed) := by
  simp [State.run, h, State.memRead_eq, State.readResult_fail ht]

/-- An operation whose read succeeds. -/
theorem State.run_reads {s : State} {rule : Params → Rule} {a : Byte} {n : Nat} {next : List Byte → AfterRead}
    (h : rule s.params = .read a n next) (ht : s.nextTransport.ok = true) :
    s.run rule = (s.othersAct.record .self (.read a n (some (s.othersAct.bytesAt a n)))).complete
      (next (s.othersAct.bytesAt a n)) := by
  simp [State.run, h, State.memRead_eq, State.readResult_ok ht]

/-- The four ways an operation can end (P0, P1, P2 and P3 of R212), each with the whole state it ends in. -/
theorem State.run_cases (s : State) (rule : Params → Rule) :
    (∃ r, rule s.params = .answer r ∧ s.run rule = s.respond r) ∨
    ∃ a n next, rule s.params = .read a n next ∧
      ((s.nextTransport.ok = false ∧
          s.run rule = (s.othersAct.record .self (.read a n none)).respond (.busError .readFailed)) ∨
        (s.nextTransport.ok = true ∧
          s.run rule = (s.othersAct.record .self (.read a n (some (s.othersAct.bytesAt a n)))).complete
            (next (s.othersAct.bytesAt a n)))) := by
  cases h : rule s.params with
  | answer r => exact .inl ⟨r, rfl, State.run_answer h⟩
  | read a n next =>
    refine .inr ⟨a, n, next, rfl, ?_⟩
    cases ht : s.nextTransport.ok with
    | false => exact .inl ⟨rfl, State.run_readFails h ht⟩
    | true => exact .inr ⟨rfl, State.run_reads h ht⟩

/-! ### One step -/

theorem step_idle {s : State} (h : s.requests = []) : step s = .next s.idle := by simp [step, h]

theorem step_reserved {s : State} {w : Request} {l : List Request} {e : Reject} (h : s.requests = w :: l)
    (hd : decode w = .error e) : step s = .next s.popRequest.rejectRequest := by simp [step, h, hd]

theorem step_exec {s : State} {w : Request} {l : List Request} {i : Instr} (h : s.requests = w :: l)
    (hd : decode w = .ok i) : step s = exec i s.popRequest := by simp [step, h, hd]

/-- What a step can be. -/
theorem step_cases (s : State) :
    (s.requests = [] ∧ step s = .next s.idle) ∨
    (∃ w l e, s.requests = w :: l ∧ decode w = .error e ∧ step s = .next s.popRequest.rejectRequest) ∨
    ∃ w l i, s.requests = w :: l ∧ decode w = .ok i ∧ step s = .next (s.popRequest.run (ruleOf i)) := by
  cases h : s.requests with
  | nil => exact .inl ⟨rfl, step_idle h⟩
  | cons w l =>
    cases hd : decode w with
    | error e => exact .inr (.inl ⟨w, l, e, rfl, hd, step_reserved h hd⟩)
    | ok i => exact .inr (.inr ⟨w, l, i, rfl, hd, (step_exec h hd).trans (exec_eq_run i _)⟩)

end Sys2Proof.Machine
end

