-- ==== Sys2Proof/Laws/PerInstr.lean ====
section
/-! SUPPORT. What is said of each operation as syntax: its request word's fields lie where R80 and R81 put them. -/

namespace Sys2Proof.Laws.EncodingFields

/-- The opcode of each operation (`30_encoding.md` R83, column "OP"). -/
def opcode : Instr → BitVec 4
  | .extract _ _ _ => 0x0
  | .insert _ _ _ => 0x1
  | .odrenc _ => 0x2
  | .odrdec _ => 0x3
  | .asm16 _ _ => 0x4
  | .getfs _ => 0x8
  | .setodr _ => 0x9
  | .getodr _ => 0xA
  | .intpin _ => 0xB
  | .rdaxis _ _ => 0xC

/-- The destination-valid flag of an operation; 0 where the operation does not use it (R84, R87). -/
def destination : Instr → Bool
  | .extract _ _ _ => false
  | .insert _ _ _ => false
  | .odrenc _ => false
  | .odrdec _ => false
  | .asm16 _ _ => false
  | .getfs dv => dv
  | .setodr _ => false
  | .getodr dv => dv
  | .intpin _ => false
  | .rdaxis dv _ => dv

/-- The operands `A`, `B`, `C` of an operation as numbers; 0 where unused (R83, column "fields used"; R84). -/
def operands : Instr → Nat × Nat × Nat
  | .extract byte mask shift => (byte.toNat, mask.toNat, shift.toNat)
  | .insert value mask shift => (value.toNat, mask.toNat, shift.toNat)
  | .odrenc rate => (rate, 0, 0)
  | .odrdec byte => (byte.toNat, 0, 0)
  | .asm16 lowByte highByte => (lowByte.toNat, highByte.toNat, 0)
  | .getfs _ => (0, 0, 0)
  | .setodr rate => (rate, 0, 0)
  | .getodr _ => (0, 0, 0)
  | .intpin enable => (enable, 0, 0)
  | .rdaxis _ axis => (axis, 0, 0)

/-- The word of a well-formed operation holds its opcode, its flag and its operands, and its reserved field is 0. -/
def Statement (i : Instr) : Prop :=
  i.wellFormed = true → (encode i).op = opcode i ∧ (encode i).dv = BitVec.ofBool (destination i) ∧ (encode i).rsv = 0 ∧
    ((encode i).a.toNat, (encode i).b.toNat, (encode i).c.toNat) = operands i

/-- The fields of a word built from them, its operands as numbers. -/
theorem fields {op : BitVec 4} {dv : Bool} {a b c : Byte} {x y z : Nat} (hx : a.toNat = x) (hy : b.toNat = y)
    (hz : c.toNat = z) :
    (requestWord op dv a b c).op = op ∧ (requestWord op dv a b c).dv = BitVec.ofBool dv ∧
      (requestWord op dv a b c).rsv = 0 ∧
      ((requestWord op dv a b c).a.toNat, (requestWord op dv a b c).b.toNat, (requestWord op dv a b c).c.toNat) =
        (x, y, z) := by
  simp [hx, hy, hz]

theorem toNat_shift (shift : BitVec 3) : (shift.setWidth 8).toNat = shift.toNat := by
  have := shift.isLt
  simp
  omega

theorem toNat_small {n : Nat} (h : decide (n ≤ 255) = true) : (BitVec.ofNat 8 n).toNat = n := by
  have := of_decide_eq_true h
  simp
  omega

theorem extract (byte mask : Byte) (shift : BitVec 3) : Statement (.extract byte mask shift) :=
  fun _ => fields rfl rfl (toNat_shift shift)

theorem insert (value mask : Byte) (shift : BitVec 3) : Statement (.insert value mask shift) :=
  fun _ => fields rfl rfl (toNat_shift shift)

theorem odrenc (rate : Nat) : Statement (.odrenc rate) := fun h => fields (toNat_small h) rfl rfl

theorem odrdec (byte : Byte) : Statement (.odrdec byte) := fun _ => fields rfl rfl rfl

theorem asm16 (lowByte highByte : Byte) : Statement (.asm16 lowByte highByte) := fun _ => fields rfl rfl rfl

theorem getfs (dv : Bool) : Statement (.getfs dv) := fun _ => fields rfl rfl rfl

theorem setodr (rate : Nat) : Statement (.setodr rate) := fun h => fields (toNat_small h) rfl rfl

theorem getodr (dv : Bool) : Statement (.getodr dv) := fun _ => fields rfl rfl rfl

theorem intpin (enable : Nat) : Statement (.intpin enable) := fun h => fields (toNat_small h) rfl rfl

theorem rdaxis (dv : Bool) (axis : Nat) : Statement (.rdaxis dv axis) := fun h => fields (toNat_small h) rfl rfl

end Sys2Proof.Laws.EncodingFields
end

