-- ==== Sys2Proof/Tests/Slice0.lean ====
section
/-! SUPPORT. Tests of the author's own, with results from the spec's worked examples (`95_test_vectors.md`, the rules' own
examples), and for every obligation with hypotheses a concrete case that meets them all. The addresses are the candidates
of `93_implementation_defined.md` G1, used here as an example only. -/

namespace Sys2Proof.Tests

open Sys2Proof.Machine

/-! ### Small systems -/

def params (closed : Bool) : Params :=
  { devAddr := 0x1E, ctrl1 := 0x20, ctrl2 := 0x21, intCfg := 0x30, xL := 0x28, yL := 0x2A, zL := 0x2C, closed := closed }

/-- A bus call that succeeds, that fails with nothing written, that fails although the byte was written; nobody else
acts before it. -/
def good : Draw := ⟨[], ⟨true, false⟩⟩
def bad : Draw := ⟨[], ⟨false, false⟩⟩
def badLanded : Draw := ⟨[], ⟨false, true⟩⟩

/-- A closed system with one instance, the device's registers `dev` and the draws `draws`. -/
def system (dev : Memory) (draws : List Draw) : State :=
  { params := params true, dev := dev, requests := [], responses := [], log := [], others := [], draws := draws, drawn := 0 }

/-- The same with another master allowed. -/
def openSystem (dev : Memory) (draws : List Draw) : State := { system dev draws with params := params false }

/-- The state an operation ends in. -/
def after (i : Instr) (s : State) : State := s.run (ruleOf i)

theorem exec_after (i : Instr) (s : State) : exec i s = .next (after i s) := exec_eq_run i s

/-! ### Well-formedness: an operand above 255 is refused -/

theorem test_wellFormed_odrenc : (Instr.odrenc 256).wellFormed = false := by decide
theorem test_wellFormed_setodr : (Instr.setodr 256).wellFormed = false := by decide
theorem test_wellFormed_intpin : (Instr.intpin 256).wellFormed = false := by decide
theorem test_wellFormed_rdaxis : (Instr.rdaxis true 256).wellFormed = false := by decide

/-! ### Decoding (R83, R91, `95_test_vectors.md` section 2), field by field: OP, DV, RSV, A, B, C -/

theorem test_decode_extract : (decode 0b0000_0_000_10011111_01100000_00000101#32).toOption = some (.extract 0x9F 0x60 5) := by
  decide
theorem test_decode_insert : (decode 0b0001_0_000_00000011_01100000_00000101#32).toOption = some (.insert 3 0x60 5) := by
  decide
theorem test_decode_odrenc : (decode 0b0010_0_000_00001000_00000000_00000000#32).toOption = some (.odrenc 8) := by decide
theorem test_decode_odrdec : (decode 0b0011_0_000_01100010_00000000_00000000#32).toOption = some (.odrdec 0x62) := by decide
theorem test_decode_asm16 : (decode 0b0100_0_000_00110100_00010010_00000000#32).toOption = some (.asm16 0x34 0x12) := by
  decide
theorem test_decode_getfs : (decode 0b1000_1_000_00000000_00000000_00000000#32).toOption = some (.getfs true) := by decide
theorem test_decode_setodr : (decode 0b1001_0_000_00001111_00000000_00000000#32).toOption = some (.setodr 15) := by decide
theorem test_decode_getodr : (decode 0b1010_0_000_00000000_00000000_00000000#32).toOption = some (.getodr false) := by decide
theorem test_decode_intpin : (decode 0b1011_0_000_00000010_00000000_00000000#32).toOption = some (.intpin 2) := by decide
theorem test_decode_rdaxis : (decode 0b1100_1_000_00000011_00000000_00000000#32).toOption = some (.rdaxis true 3) := by decide

/-- The reserved words of `95_test_vectors.md` section 2.10. -/
theorem test_decode_reserved_opcode :
    ([0x50000000, 0x60000000, 0x70000000, 0xD0000000, 0xE0000000, 0xF0000000, 0xFFFFFFFF, 0x01000000, 0x009F6008,
      0x009F60FF] : List Request).all (fun w => (decode w).toOption.isNone) = true := by decide

theorem test_decode_reserved_field :
    ([0x28080000, 0x20080001, 0x98040000, 0x90040100, 0x88000001, 0x8C000000, 0xB8010000, 0xC8000100, 0x40341201] :
      List Request).all (fun w => (decode w).toOption.isNone) = true := by decide

/-- R92's table of expansions. -/
theorem test_encode_pseudo :
    encode pseudoInten = 0xB0010000 ∧ encode pseudoIntdis = 0xB0000000 ∧ encode (pseudoExtractFs 0x9F) = 0x009F6005 ∧
    encode (pseudoExtractDr 0x9F) = 0x009F1C02 ∧ encode (pseudoExtractFast 0x9F) = 0x009F0201 ∧
    encode (pseudoExtractPm 0x9F) = 0x009F6005 ∧ encode (pseudoExtractIen 0x9F) = 0x009F0100 ∧
    encode (pseudoInsertFs 3) = 0x10036005 ∧ encode (pseudoInsertDr 3) = 0x10031C02 ∧
    encode (pseudoInsertFast 3) = 0x10030201 ∧ encode (pseudoInsertPm 3) = 0x10036005 ∧
    encode (pseudoInsertIen 3) = 0x10030100 := by decide

/-! ### One operation each -/

/-- R110: a mask that is not aligned to the shift; section 2.1. -/
theorem test_extract_field :
    ([(0x9F, 0x60, 5), (0x40, 0x60, 5), (0x14, 0x1C, 2), (0xA5, 0xF0, 4), (0xFF, 0x60, 0), (0xFF, 0x60, 7), (0xFF, 0xFF, 7)] :
      List (Byte × Byte × BitVec 3)).map (fun x => (after (.extract x.1 x.2.1 x.2.2) (system [] [])).responses) =
    [[.ok (some 0x0000)], [.ok (some 0x0002)], [.ok (some 0x0005)], [.ok (some 0x000A)], [.ok (some 0x0060)],
      [.ok (some 0x0000)], [.ok (some 0x0001)]] := by decide

/-- R112: a value too wide for its field, and bits shifted past bit 7; section 2.2. -/
theorem test_insert_field :
    ([(3, 0x60, 5), (5, 0x60, 5), (4, 0x60, 5), (15, 0x1C, 2), (0xFF, 0xFF, 7), (0x81, 0xFF, 1), (1, 0x60, 0)] :
      List (Byte × Byte × BitVec 3)).map (fun x => (after (.insert x.1 x.2.1 x.2.2) (system [] [])).responses) =
    [[.ok (some 0x0060)], [.ok (some 0x0020)], [.ok (some 0x0000)], [.ok (some 0x001C)], [.ok (some 0x0080)],
      [.ok (some 0x0002)], [.ok (some 0x0000)]] := by decide

/-- Section 2.3: the twelve encodings and three undefined rates. -/
theorem test_odrenc_table : [0, 1, 2, 3, 4, 5, 6, 7, 8, 9, 10, 11, 12, 15, 255].map odrEncode =
    [some 0x00, some 0x04, some 0x08, some 0x0C, some 0x10, some 0x14, some 0x18, some 0x1C, some 0x62, some 0x42,
      some 0x22, some 0x02, none, none, none] := by decide

/-- R134: the defined rate 8 and the undefined rate 15. -/
theorem test_odrenc : (after (.odrenc 8) (system [] [])).responses = [.ok (some 0x0062)] ∧
    (after (.odrenc 15) (system [] [])).responses = [.deviceError .undefinedRate] := by decide

/-- Section 2.3: bytes that are not raw encodings decode too. -/
theorem test_odrdec : ([0x62, 0xFF, 0x7C, 0x9F, 0x81, 0x7E, 0x1E, 0xFD, 0x60, 0xDF] : List Byte).map (fun b =>
      (after (.odrdec b) (system [] [])).responses) =
    [[.ok (some 8)], [.ok (some 8)], [.ok (some 7)], [.ok (some 11)], [.ok (some 0)], [.ok (some 8)], [.ok (some 11)],
      [.ok (some 7)], [.ok (some 0)], [.ok (some 9)]] := by decide

/-- Section 2.8: which byte is high, and where the sign comes from. -/
theorem test_asm16 : ([(0x34, 0x12), (0xFF, 0xFF), (0x00, 0x80), (0xFF, 0x00), (0x80, 0x00), (0xCD, 0xAB)] :
      List (Byte × Byte)).map (fun x => (asm16 x.1 x.2, sample x.1 x.2)) =
    [(0x1234, 4660), (0xFFFF, -1), (0x8000, -32768), (0x00FF, 255), (0x0080, 128), (0xABCD, -21555)] := by decide

theorem test_asm16_response : (after (.asm16 0x34 0x12) (system [] [])).responses = [.ok (some 0x1234)] := by decide

/-- S7. -/
theorem test_getfs : ([0x00, 0x20, 0x40, 0x60, 0x9F, 0xFF, 0xBF] : List Byte).map (fun b =>
      (after (.getfs true) (system [(0x21, b)] [good])).responses) =
    [[.ok (some 0)], [.ok (some 1)], [.ok (some 2)], [.ok (some 3)], [.ok (some 0)], [.ok (some 3)], [.ok (some 1)]] := by
  decide

/-- S11 and section 2.9: no destination, whatever the bus would have done; a failing read. -/
theorem test_getfs_fails : (after (.getfs false) (system [(0x21, 0x40)] [bad])).responses = [.deviceError .nullDestination] ∧
    (after (.getfs false) (system [(0x21, 0x40)] [bad])).log = [] ∧
    (after (.getfs true) (system [(0x21, 0x40)] [bad])).responses = [.busError .readFailed] := by decide

/-- Section 2.4: the OR, with a stale flag and stale modes among the rows. -/
theorem test_setodr : ([(0x00, 0, 0x00), (0x81, 4, 0x91), (0x81, 8, 0xE3), (0x1C, 11, 0x1E), (0x83, 7, 0x9F),
      (0x10, 2, 0x18), (0x62, 11, 0x62), (0x22, 9, 0x62), (0xFF, 3, 0xFF)] : List (Byte × Nat × Byte)).all (fun x =>
    ((after (.setodr x.2.1) (system [(0x20, x.1)] [good, good])).dev.read 0x20 == x.2.2) &&
      ((after (.setodr x.2.1) (system [(0x20, x.1)] [good, good])).responses == [.ok none])) = true := by decide

/-- Section 2.9: the read comes before the check of the rate; a failed write leaves either byte. -/
theorem test_setodr_fails :
    ([(15, [bad]), (15, [good]), (4, [bad]), (4, [good, bad]), (4, [good, badLanded])] : List (Nat × List Draw)).map (fun x =>
      let t := after (.setodr x.1) (system [(0x20, 0x81)] x.2)
      (t.responses, t.log.length, t.dev.read 0x20)) =
    [([.busError .readFailed], 1, 0x81), ([.deviceError .undefinedRate], 1, 0x81), ([.busError .readFailed], 1, 0x81),
      ([.busError .writeFailed], 2, 0x81), ([.busError .writeFailed], 2, 0x91)] := by decide

/-- Section 2.5. -/
theorem test_getodr : ([0x91, 0xE3, 0x83, 0x9F, 0x00] : List Byte).map (fun b =>
      (after (.getodr true) (system [(0x20, b)] [good])).responses) =
    [[.ok (some 4)], [.ok (some 8)], [.ok (some 11)], [.ok (some 11)], [.ok (some 0)]] := by decide

theorem test_getodr_fails : (after (.getodr false) (system [] [good])).responses = [.deviceError .nullDestination] ∧
    (after (.getodr true) (system [(0x20, 0x81)] [bad])).responses = [.busError .readFailed] := by decide

/-- Section 2.7. -/
theorem test_intpin : ([(0xE8, 1, 0xE9), (0xE9, 1, 0xE9), (0xE9, 0, 0xE8), (0xE8, 0, 0xE8), (0x00, 1, 0x01),
      (0xFF, 0, 0xFE), (0xFF, 1, 0xFF)] : List (Byte × Nat × Byte)).all (fun x =>
    ((after (.intpin x.2.1) (system [(0x30, x.1)] [good, good])).dev.read 0x30 == x.2.2) &&
      ((after (.intpin x.2.1) (system [(0x30, x.1)] [good, good])).responses == [.ok none])) = true := by decide

/-- Sections 2.7 and 2.9: rejected operands and failing calls. -/
theorem test_intpin_fails :
    ([(2, [bad]), (3, [good]), (255, [good]), (1, [bad]), (1, [good, bad]), (1, [good, badLanded])] :
      List (Nat × List Draw)).map (fun x =>
        let t := after (.intpin x.1) (system [(0x30, 0xE8)] x.2)
        (t.responses, t.log.length, t.dev.read 0x30)) =
    [([.deviceError .invalidEnable], 0, 0xE8), ([.deviceError .invalidEnable], 0, 0xE8),
      ([.deviceError .invalidEnable], 0, 0xE8), ([.busError .readFailed], 1, 0xE8), ([.busError .writeFailed], 2, 0xE8),
      ([.busError .writeFailed], 2, 0xE9)] := by decide

/-- The three axes of section 2.8. -/
def axes : Memory := [(0x28, 0x34), (0x29, 0x12), (0x2A, 0xCD), (0x2B, 0xAB), (0x2D, 0x80)]

theorem test_rdaxis : [0, 1, 2].map (fun n => (after (.rdaxis true n) (system axes [good])).responses) =
    [[.ok (some 0x1234)], [.ok (some 0xABCD)], [.ok (some 0x8000)]] := by decide

theorem test_rdaxis_fails :
    ([(true, 3, [good]), (true, 255, [good]), (false, 0, [bad]), (false, 3, [good]), (true, 1, [bad])] :
      List (Bool × Nat × List Draw)).map (fun x =>
        let t := after (.rdaxis x.1 x.2.1) (system axes x.2.2)
        (t.responses, t.log.length)) =
    [([.deviceError .unknownAxis], 0), ([.deviceError .unknownAxis], 0), ([.deviceError .nullDestination], 0),
      ([.deviceError .nullDestination], 0), ([.busError .readFailed], 1)] := by decide

/-! ### The step, the response port and the other agents -/

/-- R82: the response word; no datum on a failure; status 2 for a bus error. -/
theorem test_response_port : (Response.ok (some 0x1234)).word = some 0x01234 ∧ (Response.ok none).port = (0, none) ∧
    (Response.deviceError .unknownAxis).port = (1, none) ∧ (Response.busError .readFailed).port = (2, none) := by decide

/-- A step accepts the word of `INTPIN 1` and runs it. -/
theorem test_step : ((nextState (step ((system [(0x30, 0xE8)] [good, good]).withFetchWord 32 0xB0010000))).map
    (fun t => (t.requests, t.dev.read 0x30, t.responses))) = some ([], 0xE9, [.ok none]) := by decide

/-- R205's first instance: another master writes 0x08 between the read and the write of `INTPIN 1`. -/
theorem test_lost_update : (after (.intpin 1) (openSystem [(0x30, 0xE8)] [good, ⟨[.write 0x30 0x08], ⟨true, false⟩⟩])).dev =
    [(0x30, 0xE9)] := by decide

/-- The other instance of program P6, with `SETODR 8` to do. -/
def rivalQ : Rival := { requests := [0x90080000], phase := .idle, responses := [] }

/-- P6: both read before either writes, and this instance writes last. -/
theorem test_two_instances : (after (.setodr 4) { system [] [⟨[], ⟨true, false⟩⟩,
      ⟨[.turn 0 ⟨true, false⟩, .turn 0 ⟨true, false⟩], ⟨true, false⟩⟩] with others := [rivalQ] }).dev = [(0x20, 0x10)] := by
  decide

/-! ### Every hypothesis of every obligation can be met -/

theorem witness_DecodeOfEncode : (Instr.rdaxis true 255).wellFormed = true ∧ (Instr.odrenc 0).wellFormed = true := by decide

theorem witness_EncodeOfDecode : decode 0xC8FF0000 = .ok (.rdaxis true 255) := by rfl

theorem witness_ReservedRequestIsAnsweredWithoutBus :
    ({ system [] [] with requests := [0x009F6008] } : State).requests = 0x009F6008 :: [] ∧
      Request.reserved 0x009F6008 = true := by decide

theorem witness_WideOperandsAreTreatedAsReservedOnes :
    (SourceCall.readAxisData 255 true).instr.wellFormed = true ∧
      (SourceCall.readAxisData 256 true).instr.wellFormed = false ∧ (255 : Nat) < 256 := by decide

/-- R93: a call whose operand fits has its word, one whose operand does not fit has none. -/
theorem test_source_call_request : (SourceCall.readAxisData 255 true).request = some 0xC8FF0000 ∧
    (SourceCall.readAxisData 256 true).request = none := by decide

theorem witness_StepRunsTheDecodedOperation :
    ({ system [] [good] with requests := [0x88000000] } : State).requests = 0x88000000 :: [] ∧
      decode 0x88000000 = .ok (.getfs true) := ⟨rfl, rfl⟩

theorem witness_IdleStepIssuesNothing : (system [] []).requests = [] := rfl

theorem witness_CodecLaws :
    (drMask, drShift, 7) ∈ ([(fsMask, fsShift, 3), (drMask, drShift, 7), (fastMask, fastShift, 1), (pmMask, pmShift, 3),
      (ienMask, ienShift, 1)] : List (Byte × BitVec 3 × Nat)) ∧ (7 : Byte).toNat ≤ 7 := by decide

theorem witness_OdrencResult : (7 : Nat) ≤ 7 ∧ (8 : Nat) ≤ 8 ∧ (8 : Nat) ≤ 11 ∧ (8 : Nat) ≤ 11 ∧ (11 : Nat) ≤ 11 ∧
    (12 : Nat) ≤ 12 := by decide

theorem witness_RateRoundTrip : (11 : Nat) ≤ 11 ∧ (0x81 : Byte) &&& 0x7E = 0 := by decide

theorem witness_FastRateTableIsSymmetric : (8 : Nat) ≤ 8 ∧ (8 : Nat) ≤ 11 ∧ (8 : Nat) ≤ 11 ∧ (11 : Nat) ≤ 11 := by decide

theorem witness_OrLeavesTheOldFieldsMerged : odrEncode 7 = some 0x1C ∧ (7 : Nat) ≤ 7 ∧ odrEncode 8 = some 0x62 ∧
    modeOfRate 8 = some .ultrahigh ∧ odrEncode 11 = some 0x02 ∧ modeOfRate 11 = some .low := by decide

/-- The state after the read of SETODR or INTPIN, as their obligations name it. -/
def afterRead (s : State) (a : Byte) : State :=
  s.othersAct.record .self (.read a 1 (some [s.othersAct.dev.read a]))

theorem witness_SetodrOutcomes : (system [] [bad]).nextTransport.ok = false ∧
    ((system [] [good]).nextTransport.ok = true ∧ 12 ≤ 12) ∧
    ((system [] [good, bad]).nextTransport.ok = true ∧ odrEncode 11 = some 0x02 ∧
      (afterRead (system [] [good, bad]) 0x20).nextTransport.ok = false) ∧
    (system [] [good, good]).nextTransport.ok = true ∧ odrEncode 0 = some 0x00 ∧
      (afterRead (system [] [good, good]) 0x20).nextTransport.ok = true := by decide

theorem witness_SetodrNeverClearsABit :
    exec (.setodr 7) (system [(0x20, 0x83)] [good, good]) = .next (after (.setodr 7) (system [(0x20, 0x83)] [good, good])) ∧
      (after (.setodr 7) (system [(0x20, 0x83)] [good, good])).lastResponse = some (.ok none) :=
  ⟨exec_after _ _, by decide⟩

theorem witness_GetodrOutcomes :
    (system [] [bad]).nextTransport.ok = false ∧ (system [] [good]).nextTransport.ok = true := by decide

theorem witness_GetfsOutcomes :
    (system [] [bad]).nextTransport.ok = false ∧ (system [] [good]).nextTransport.ok = true := by decide

/-- A system of three successful calls, with control-1 at 0x83 and interrupt-config at 0xE8. -/
def ready : State := system [(0x20, 0x83), (0x30, 0xE8)] [good, good, good, good]

theorem ready_sound : ready.sound := by unfold State.sound; decide

theorem ready_alone : ready.alone := by unfold State.alone; decide

theorem witness_GetodrAfterSetodrReportsTheMergedByte : ready.sound ∧ ready.alone ∧ odrEncode 7 = some 0x1C ∧
    exec (.setodr 7) ready = .next (after (.setodr 7) ready) ∧
    (after (.setodr 7) ready).lastResponse = some (.ok none) ∧
    exec (.getodr true) (after (.setodr 7) ready) = .next (after (.getodr true) (after (.setodr 7) ready)) ∧
    (after (.getodr true) (after (.setodr 7) ready)).lastResponse = some (.ok (some 11)) :=
  ⟨ready_sound, ready_alone, by decide, exec_after _ _, by decide, exec_after _ _, by decide⟩

theorem witness_IntpinOutcomes : (2 : Nat) ≤ 2 ∧ ((1 : Nat) ≤ 1 ∧ (system [] [bad]).nextTransport.ok = false) ∧
    ((0 : Nat) ≤ 1 ∧ (system [] [good, bad]).nextTransport.ok = true ∧
      (afterRead (system [] [good, bad]) 0x30).nextTransport.ok = false) ∧
    (1 : Nat) ≤ 1 ∧ (system [] [good, good]).nextTransport.ok = true ∧
      (afterRead (system [] [good, good]) 0x30).nextTransport.ok = true := by decide

theorem witness_IntpinWritesExactlyItsBit : exec (.intpin 1) ready = .next (after (.intpin 1) ready) ∧
    (after (.intpin 1) ready).lastResponse = some (.ok none) := ⟨exec_after _ _, by decide⟩

theorem witness_IntpinOnThenOff : ready.sound ∧ ready.alone ∧
    exec (.intpin 1) ready = .next (after (.intpin 1) ready) ∧
    (after (.intpin 1) ready).lastResponse = some (.ok none) ∧
    exec (.intpin 0) (after (.intpin 1) ready) = .next (after (.intpin 0) (after (.intpin 1) ready)) ∧
    (after (.intpin 0) (after (.intpin 1) ready)).lastResponse = some (.ok none) :=
  ⟨ready_sound, ready_alone, exec_after _ _, by decide, exec_after _ _, by decide⟩

theorem witness_ReassemblyIsABijection : asm16 0x34 0x12 = 0x1234 := by decide

theorem witness_RdaxisOutcomes : (3 : Nat) ≤ 3 ∧
    (((0 : Nat) = 0 ∧ (0x28 : Byte) = ready.params.xL) ∧ (1 : Nat) = 1 ∧ (0x2A : Byte) = ready.params.yL ∧
      (2 : Nat) = 2 ∧ (0x2C : Byte) = ready.params.zL) ∧
    (system [] [bad]).nextTransport.ok = false ∧ ready.nextTransport.ok = true := by decide

theorem witness_AnySampleCanBeRead : (2 : Nat) ≤ 2 := by decide

theorem witness_ReadingOperationsFrame : (∀ n, Instr.getfs true ≠ .setodr n) ∧ (∀ n, Instr.getfs true ≠ .intpin n) ∧
    ready.nextDraw.before = [] ∧ exec (.getfs true) ready = .next (after (.getfs true) ready) :=
  ⟨by simp, by simp, by decide, exec_after _ _⟩

theorem witness_WritingOperationsFrame : ready.nextDraw.before = [] ∧ ready.takeDraw.nextDraw.before = [] ∧
    exec (.setodr 7) ready = .next (after (.setodr 7) ready) ∧ exec (.intpin 1) ready = .next (after (.intpin 1) ready) ∧
    (0x30 : Byte) ≠ ready.params.ctrl1 ∧ (0x20 : Byte) ≠ ready.params.intCfg :=
  ⟨by decide, by decide, exec_after _ _, exec_after _ _, by decide, by decide⟩

theorem witness_EachControlRegisterHasItsOnlyWriter : ready.sound ∧ ready.alone ∧
    exec (.getodr true) ready = .next (after (.getodr true) ready) ∧ (∀ n, Instr.getodr true ≠ .setodr n) ∧
    ∀ n, Instr.getodr true ≠ .intpin n := ⟨ready_sound, ready_alone, exec_after _ _, by simp, by simp⟩

theorem witness_WhatAWriteLeavesBehind : (⟨true, false⟩ : Transport).ok = true ∧ (0x21 : Byte) ≠ 0x20 := by decide

theorem witness_CanonicalRegistersAreEqualWhenTheyReadAlike :
    Memory.wf [(0, 1), (255, 2)] ∧ ∀ a : Byte, Memory.read [(0, 1), (255, 2)] a = Memory.read [(0, 1), (255, 2)] a :=
  ⟨by decide, fun _ => rfl⟩

theorem witness_AtMostOneReadThenOneWrite : exec (.setodr 7) ready = .next (after (.setodr 7) ready) := exec_after _ _

theorem witness_ClosedSystemKeepsControlRegisters : ready.params.ok ∧ ready.alone ∧
    (0x30 : Byte) ∈ ready.params.controlAddrs := ⟨by decide, ready_alone, by decide⟩

theorem witness_DatumExactlyOnOk : exec (.getodr true) ready = .next (after (.getodr true) ready) ∧
    (after (.getodr true) ready).lastResponse = some (.ok (some 11)) ∧ (∀ l h, Instr.getodr true ≠ .asm16 l h) ∧
    (∀ dv n, Instr.getodr true ≠ .rdaxis dv n) ∧ (Response.ok (some 11)).port.2 = some 11 :=
  ⟨exec_after _ _, by decide, by simp, by simp, rfl⟩

theorem witness_NoWriteOnDeviceError : exec (.setodr 12) ready = .next (after (.setodr 12) ready) ∧
    (after (.setodr 12) ready).lastResponse = some (.deviceError .undefinedRate) := ⟨exec_after _ _, by decide⟩

theorem witness_EarlierOutcomesChangeNothing : exec (.setodr 7) ready = .next (after (.setodr 7) ready) := exec_after _ _

/-- Program P5: the first write fails, the retry does not. -/
def failing (landed : Bool) : State :=
  system [(0x20, 0x81), (0x30, 0xE8)] [good, ⟨[], ⟨false, landed⟩⟩, good, good]

theorem witness_RetryAfterFailedWriteConverges : (∀ b, (failing b).sound) ∧ (∀ b, (failing b).alone) ∧
    odrEncode 8 = some 0x62 ∧ ∀ b, ∀ i ∈ [Instr.setodr 8, Instr.intpin 1],
      exec i (failing b) = .next (after i (failing b)) ∧
      (after i (failing b)).lastResponse = some (.busError .writeFailed) ∧
      exec i (after i (failing b)) = .next (after i (after i (failing b))) ∧
      (after i (after i (failing b))).lastResponse = some (.ok none) := by
  refine ⟨fun b => by cases b <;> (unfold State.sound; decide), fun b => by cases b <;> (unfold State.alone; decide),
    by decide, fun b i hi => ⟨exec_after _ _, ?_, exec_after _ _, ?_⟩⟩ <;> revert i b <;> decide

theorem witness_WriteBetweenReadAndWriteIsLost :
    (openSystem [] []).params.closed = false ∧ (⟨true, false⟩ : Transport).ok = true ∧ odrEncode 7 = some 0x1C ∧
    (1 : Nat) ≤ 1 ∧
    (openSystem [] [⟨[], ⟨true, false⟩⟩, ⟨[.write 0x20 0x08], ⟨true, false⟩⟩]).draws =
      ⟨[], ⟨true, false⟩⟩ :: ⟨[.write 0x20 0x08], ⟨true, false⟩⟩ :: [] := by decide

theorem witness_TwoInstancesCanLoseAnUpdate : (0x72 : Byte) ∈ ([0x72, 0x62, 0x10] : List Byte) := by decide

/-- `ready` with a request to accept. -/
def readyToStep : State := { ready with requests := [0x90070000] }

theorem readyToStep_sound : readyToStep.sound := by unfold State.sound; decide

theorem readyToStep_steps : step readyToStep = .next (after (.setodr 7) readyToStep.popRequest) :=
  (step_exec rfl rfl).trans (exec_after _ _)

theorem witness_StepKeepsSoundness : readyToStep.sound ∧
    step readyToStep = .next (after (.setodr 7) readyToStep.popRequest) := ⟨readyToStep_sound, readyToStep_steps⟩

theorem witness_NothingChangesTheFullScaleRange : readyToStep.sound ∧ readyToStep.params.closed = true ∧
    step readyToStep = .next (after (.setodr 7) readyToStep.popRequest) := ⟨readyToStep_sound, rfl, readyToStep_steps⟩

theorem witness_RateBitsOnlyGrow : readyToStep.sound ∧ readyToStep.alone ∧
    step readyToStep = .next (after (.setodr 7) readyToStep.popRequest) :=
  ⟨readyToStep_sound, ⟨rfl, rfl⟩, readyToStep_steps⟩

theorem witness_PhasesAgreeWithTheWholeOperation :
    ({ ready with others := [rivalQ] } : State).others[0]? = some rivalQ ∧ rivalQ.phase = .idle ∧
    rivalQ.requests = [0x90080000] ∧ decode 0x90080000 = .ok (.setodr 8) ∧
    exec (.setodr 8) { ready with others := [rivalQ], draws := [good, bad] } =
      .next (after (.setodr 8) { ready with others := [rivalQ], draws := [good, bad] }) :=
  ⟨rfl, rfl, rfl, rfl, exec_after _ _⟩

end Sys2Proof.Tests
end

section
/-! PROOFS. The invariant of every run (`State.sound`): it holds after reset, and each named update, each bus primitive,
each action of another agent and each run of an operation keeps it, so every step does. -/

namespace Sys2Proof.Machine

/-! ### What the rules may issue (`20_memory.md` R56, R59, R60) -/

/-- A recognised selector's address is one of the three base addresses (R160). -/
theorem axisAddr_mem_axisBases {p : Params} {axis : Nat} {a : Byte} (h : axisAddr p axis = some a) :
    a ∈ axisBases p := by
  unfold axisAddr at h
  split_ifs at h <;> cases h <;> simp [axisBases]

/-- The one read of an operation: one byte of a control register, or two bytes from an axis's base address. -/
theorem ruleOf_read_cases {i : Instr} {p : Params} {a : Byte} {n : Nat} {next : List Byte → AfterRead}
    (h : ruleOf i p = .read a n next) : n = 1 ∧ a ∈ p.controlAddrs ∨ n = 2 ∧ a ∈ axisBases p := by
  cases i with
  | extract | insert | odrdec | asm16 => cases h
  | odrenc rate =>
    simp only [ruleOf, ruleOdrenc] at h
    split at h <;> cases h
  | getfs dv | getodr dv =>
    cases dv <;> cases h
    exact .inl ⟨rfl, by simp [Params.controlAddrs]⟩
  | setodr rate =>
    cases h
    exact .inl ⟨rfl, by simp [Params.controlAddrs]⟩
  | intpin enable =>
    simp only [ruleOf, ruleIntpin] at h
    split at h <;> cases h
    exact .inl ⟨rfl, by simp [Params.controlAddrs]⟩
  | rdaxis dv axis =>
    cases dv with
    | false => cases h
    | true =>
      simp only [ruleOf, ruleRdaxis, Bool.true_eq_false, if_false] at h
      split at h <;> cases h
      next ha => exact .inr ⟨rfl, axisAddr_mem_axisBases ha⟩

/-- The one write of an operation: SETODR's OR into control-1, or INTPIN's bit in interrupt-config. -/
theorem ruleOf_write_cases {i : Instr} {p : Params} {r : List Byte} {a b : Byte}
    (h : (ruleOf i p).afterRead r = .write a b) :
    (∃ rate e, i = .setodr rate ∧ odrEncode rate = some e ∧ a = p.ctrl1 ∧ b = byteAt r 0 ||| e) ∨
    ∃ enable, i = .intpin enable ∧ enable ≤ 1 ∧ a = p.intCfg ∧ b = intPinByte enable (byteAt r 0) := by
  cases i with
  | extract | insert | odrdec | asm16 => cases h
  | odrenc rate =>
    simp only [ruleOf, ruleOdrenc] at h
    split at h <;> cases h
  | getfs dv =>
    cases dv with
    | false => cases h
    | true =>
      simp only [ruleOf, ruleGetfs, Bool.true_eq_false, if_false, Rule.afterRead] at h
      split at h <;> cases h
  | getodr dv => cases dv <;> cases h
  | setodr rate =>
    simp only [ruleOf, ruleSetodr, Rule.afterRead] at h
    split at h <;> cases h
    next e he => exact .inl ⟨rate, e, rfl, he, rfl, rfl⟩
  | intpin enable =>
    simp only [ruleOf, ruleIntpin] at h
    split at h <;> cases h
    exact .inr ⟨enable, rfl, by omega, rfl, rfl⟩
  | rdaxis dv axis =>
    cases dv with
    | false => cases h
    | true =>
      simp only [ruleOf, ruleRdaxis, Bool.true_eq_false, if_false] at h
      split at h <;> cases h

theorem ruleOf_read_legal {i : Instr} {p : Params} {a : Byte} {n : Nat} {next : List Byte → AfterRead}
    (h : ruleOf i p = .read a n next) (result : Option (List Byte)) : (BusCall.read a n result).legal p = true := by
  rcases ruleOf_read_cases h with ⟨rfl, ha⟩ | ⟨rfl, ha⟩ <;> simp [BusCall.legal, ha]

/-- What an operation does after its read is legal: if it is a write, then one that R56 and R59 allow. -/
def AfterRead.legal (p : Params) : AfterRead → Prop
  | .answer _ => True
  | .write a b => ∀ success, (BusCall.write a [b] success).legal p = true

theorem ruleOf_afterRead_legal (i : Instr) (p : Params) (r : List Byte) : ((ruleOf i p).afterRead r).legal p := by
  cases h : (ruleOf i p).afterRead r with
  | answer => trivial
  | write a b =>
    intro success
    rcases ruleOf_write_cases h with ⟨_, _, -, -, rfl, -⟩ | ⟨_, -, -, rfl, -⟩ <;> simp [BusCall.legal]

/-! ### The named updates and the bus primitives -/

@[simp] theorem State.sound_respond (s : State) (r : Response) : (s.respond r).sound ↔ s.sound := Iff.rfl

@[simp] theorem State.sound_takeDraw (s : State) : s.takeDraw.sound ↔ s.sound := Iff.rfl

@[simp] theorem State.sound_popRequest (s : State) : s.popRequest.sound ↔ s.sound := Iff.rfl

@[simp] theorem Rival.sound_respond (p : Params) (x : Rival) (r : Response) : (x.respond r).sound p = true := rfl

theorem State.sound_setDev_write {s : State} (h : s.sound) (a b : Byte) : (s.setDev (s.dev.write a b)).sound := by
  obtain ⟨hp, hd, hl, ho⟩ := h
  exact ⟨hp, Memory.write_wf a b hd, hl, ho⟩

theorem State.sound_record {s : State} (h : s.sound) {who : Master} {c : BusCall}
    (hc : who = .software ∨ c.legal s.params = true) : (s.record who c).sound := by
  obtain ⟨hp, hd, hl, ho⟩ := h
  refine ⟨hp, hd, fun t ht => ?_, ho⟩
  rcases List.mem_append.1 ht with ht | ht
  · exact hl t ht
  · rw [List.mem_singleton.1 ht]
    simpa [Txn.legal] using hc

theorem State.sound_setRival {s : State} (h : s.sound) (k : Nat) {x : Rival} (hx : x.sound s.params = true) :
    (s.setRival k x).sound := by
  obtain ⟨hp, hd, hl, ho⟩ := h
  refine ⟨hp, hd, hl, fun y hy => ?_⟩
  rcases List.mem_or_eq_of_mem_set hy with hy | rfl
  · exact ho y hy
  · exact hx

theorem State.sound_memWrite {s : State} (h : s.sound) (who : Master) {a b : Byte} (t : Transport)
    (hc : (BusCall.write a [b] t.ok).legal s.params = true) : (s.memWrite who a b t).1.sound := by
  unfold State.memWrite
  split
  · exact State.sound_record (State.sound_setDev_write h a b) (.inr hc)
  · exact State.sound_record h (.inr hc)

theorem State.sound_finish {s : State} (h : s.sound) (who : Master) {x : AfterRead} (hx : x.legal s.params)
    (t : Transport) : (s.finish who x t).1.sound := by
  cases x with
  | answer => exact h
  | write a b => exact State.sound_memWrite h who t (hx t.ok)

/-! ### The other agents -/

/-- A rival that a successful read leaves in mid-operation holds as many bytes as it asked for. -/
theorem Rival.sound_latched {p : Params} {i : Instr} {a : Byte} {next : List Byte → AfterRead} {r : List Byte}
    (h : ruleOf i p = .read a r.length next) (x : Rival) :
    ({ x with phase := .latched i r } : Rival).sound p = true := by
  simp [Rival.sound, h]

theorem State.sound_rivalBegin {s : State} (h : s.sound) (k : Nat) (x : Rival) (i : Instr) (t : Transport) :
    (s.rivalBegin k x i t).sound := by
  unfold State.rivalBegin
  split
  · exact State.sound_setRival h k (Rival.sound_respond ..)
  · next a n next hr =>
    have hs : (s.record (.other k) (.read a n (s.readResult a n t))).sound :=
      State.sound_record h (.inr (ruleOf_read_legal hr _))
    rw [State.memRead_eq]
    cases hb : s.readResult a n t with
    | none =>
      rw [hb] at hs
      exact State.sound_setRival hs k (Rival.sound_respond ..)
    | some r =>
      rw [hb] at hs
      obtain rfl := State.readResult_length hb
      exact State.sound_setRival hs k (Rival.sound_latched hr x)

theorem State.sound_rivalFinish {s : State} (h : s.sound) (k : Nat) (x : Rival) (i : Instr) (r : List Byte)
    (t : Transport) : (s.rivalFinish k x i r t).sound :=
  State.sound_setRival (State.sound_finish h (.other k) (ruleOf_afterRead_legal i s.params r) t) k
    (Rival.sound_respond ..)

theorem State.sound_turn {s : State} (h : s.sound) (k : Nat) (t : Transport) : (s.turn k t).sound := by
  unfold State.turn
  split
  · exact h
  · split
    · exact State.sound_rivalFinish h ..
    · exact h
    · split
      · exact State.sound_setRival h k (Rival.sound_respond ..)
      · exact State.sound_rivalBegin h ..

theorem State.sound_act {s : State} (h : s.sound) (x : Action) : (s.act x).sound := by
  cases x with
  | measure a b =>
    simp only [State.act]
    split
    · exact State.sound_setDev_write h a b
    · exact h
  | write a b =>
    simp only [State.act]
    split
    · exact h
    · exact State.sound_record (State.sound_setDev_write h a b) (.inl rfl)
  | turn k t => exact State.sound_turn h k t

theorem State.sound_actAll {s : State} (h : s.sound) (l : List Action) : (s.actAll l).sound := by
  induction l generalizing s with
  | nil => exact h
  | cons x l ih => exact ih (State.sound_act h x)

theorem State.sound_othersAct {s : State} (h : s.sound) : s.othersAct.sound :=
  State.sound_actAll (s.sound_takeDraw.2 h) _

/-! ### Running an operation -/

theorem State.sound_complete {s : State} (h : s.sound) {x : AfterRead} (hx : x.legal s.params) :
    (s.complete x).sound := by
  cases x with
  | answer => exact h
  | write a b =>
    rw [State.complete_write, State.sound_respond]
    exact State.sound_memWrite (State.sound_othersAct h) .self s.nextTransport
      (by simpa using hx s.nextTransport.ok)

theorem State.sound_run {s : State} (h : s.sound) (i : Instr) : (s.run (ruleOf i)).sound := by
  have hs := State.sound_othersAct h
  rcases s.run_cases (ruleOf i) with ⟨r, -, he⟩ | ⟨a, n, next, hr, ⟨-, he⟩ | ⟨-, he⟩⟩
  · rw [he]
    exact h
  · have hc := ruleOf_read_legal hr none
    rw [he, State.sound_respond]
    exact State.sound_record hs (.inr (by simpa using hc))
  · have hc := ruleOf_read_legal hr (some (s.othersAct.bytesAt a n))
    have hx := ruleOf_afterRead_legal i s.params (s.othersAct.bytesAt a n)
    rw [hr] at hx
    rw [he]
    exact State.sound_complete (State.sound_record hs (.inr (by simpa using hc))) (by simpa [Rule.afterRead] using hx)

@[simp] theorem State.complete_params (s : State) (x : AfterRead) : (s.complete x).params = s.params := by
  cases x with
  | answer => rfl
  | write a b => simp [State.complete_write]

/-- No operation changes the bound parameters (R203). -/
@[simp] theorem State.run_params (s : State) (rule : Params → Rule) : (s.run rule).params = s.params := by
  rcases s.run_cases rule with ⟨r, -, he⟩ | ⟨a, n, next, -, ⟨-, he⟩ | ⟨-, he⟩⟩ <;> simp [he]

/-! ### Reset and the step -/

/-- R12 holds of whichever binding a run from reset has (assumption 3). -/
theorem config_params_ok : Config.params.ok := by
  unfold Config.params
  split
  · assumption
  · decide

/-- Settles O2: R12 holds of either binding, and there is no cell, no transaction and no latch yet. -/
theorem resetIsSound : Obligations.ResetIsSound := by
  refine ⟨config_params_ok, ⟨.nil, by simp [State.reset]⟩, by simp [State.reset], fun x hx => ?_⟩
  obtain ⟨rs, -, rfl⟩ := List.mem_map.1 hx
  rfl

/-- Settles O46, by the three kinds of step: an idle one, a rejected request and the run of an operation. -/
theorem stepKeepsSoundness : Obligations.StepKeepsSoundness := by
  intro s t h ht
  rcases step_cases s with ⟨-, he⟩ | ⟨w, l, e, -, -, he⟩ | ⟨w, l, i, -, -, he⟩ <;>
    obtain rfl := Host.Outcome.next.inj (he.symm.trans ht)
  · exact ⟨State.sound_othersAct h, s.othersAct_params⟩
  · exact ⟨h, rfl⟩
  · exact ⟨State.sound_run (s.sound_popRequest.2 h) i, State.run_params ..⟩

end Sys2Proof.Machine
end

section
/-! PROOFS. Who can change a control register in a closed system: an operation's one write avoids every register but its
own, the other agents keep the registers that no rival writes, so no step changes control-2. -/

namespace Sys2Proof.Machine

/-! ### The addresses of R12 -/

theorem Params.controlAddrs_distinct {p : Params} (hp : p.ok) :
    p.ctrl1 ≠ p.ctrl2 ∧ p.ctrl1 ≠ p.intCfg ∧ p.ctrl2 ≠ p.intCfg := by
  have h : p.controlAddrs.Nodup := (List.nodup_append.1 hp.1).1
  simpa [Params.controlAddrs, and_assoc] using h

theorem Params.not_mem_axisAddrs {p : Params} (hp : p.ok) {c : Byte} (hc : c ∈ p.controlAddrs) : c ∉ p.axisAddrs :=
  List.disjoint_of_nodup_append hp.1 hc

/-! ### The one write of an operation -/

/-- What an operation does after its read writes nothing to register `c`. -/
def AfterRead.avoids (c : Byte) : AfterRead → Prop
  | .answer _ => True
  | .write a _ => c ≠ a

/-- SETODR writes control-1 and INTPIN interrupt-config; every other register is avoided, and by every other operation
so are those two. -/
theorem ruleOf_afterRead_avoids {i : Instr} {p : Params} {c : Byte} (h1 : (∀ n, i ≠ .setodr n) ∨ c ≠ p.ctrl1)
    (h2 : (∀ n, i ≠ .intpin n) ∨ c ≠ p.intCfg) (r : List Byte) : ((ruleOf i p).afterRead r).avoids c := by
  cases h : (ruleOf i p).afterRead r with
  | answer => trivial
  | write a b =>
    rcases ruleOf_write_cases h with ⟨rate, -, hi, -, rfl, -⟩ | ⟨enable, hi, -, rfl, -⟩
    · exact h1.resolve_left fun hn => hn rate hi
    · exact h2.resolve_left fun hn => hn enable hi

/-- From R28: no operation writes control-2. -/
theorem ruleOf_afterRead_avoids_ctrl2 {p : Params} (hp : p.ok) (i : Instr) (r : List Byte) :
    ((ruleOf i p).afterRead r).avoids p.ctrl2 :=
  have ⟨h1, _, h3⟩ := Params.controlAddrs_distinct hp
  ruleOf_afterRead_avoids (.inr h1.symm) (.inr h3) r

theorem State.memWrite_read_other (s : State) (who : Master) {a c : Byte} (b : Byte) (t : Transport) (h : c ≠ a) :
    (s.memWrite who a b t).1.dev.read c = s.dev.read c := by
  rw [State.memWrite_dev]
  split
  · exact Memory.read_write_other s.dev b h
  · rfl

theorem State.finish_read_of_avoids (s : State) (who : Master) {x : AfterRead} {c : Byte} (hx : x.avoids c)
    (t : Transport) : (s.finish who x t).1.dev.read c = s.dev.read c := by
  cases x with
  | answer => rfl
  | write a b => exact State.memWrite_read_other s who b t hx

/-! ### The other agents -/

/-- The first phase of an operation only reads the device. -/
@[simp] theorem State.rivalBegin_dev (s : State) (k : Nat) (x : Rival) (i : Instr) (t : Transport) :
    (s.rivalBegin k x i t).dev = s.dev := by
  unfold State.rivalBegin
  split
  · rfl
  · rw [State.memRead_eq]
    cases s.readResult _ _ t <;> rfl

theorem State.turn_of_no_rivals {s : State} (h : s.others = []) (k : Nat) (t : Transport) : s.turn k t = s := by
  simp [State.turn, h]

/-- No rival's next phase changes control-2, in whatever phase it is. -/
theorem State.turn_read_ctrl2 {s : State} (hp : s.params.ok) (k : Nat) (t : Transport) :
    (s.turn k t).dev.read s.params.ctrl2 = s.dev.read s.params.ctrl2 := by
  unfold State.turn
  split
  · rfl
  · split
    · exact State.finish_read_of_avoids s _ (ruleOf_afterRead_avoids_ctrl2 hp _ _) t
    · rfl
    · split
      · rfl
      · rw [State.rivalBegin_dev]

/-- In a closed system none of the other agents writes control register `c`: it is control-2, or there are no rivals. -/
structure State.Guards (s : State) (c : Byte) : Prop where
  paramsOk : s.params.ok
  closed : s.params.closed = true
  mem : c ∈ s.params.controlAddrs
  rivals : c = s.params.ctrl2 ∨ s.others = []

theorem State.Guards.of_alone {s : State} (hp : s.params.ok) (h : s.alone) {c : Byte}
    (hc : c ∈ s.params.controlAddrs) : s.Guards c :=
  ⟨hp, h.1, hc, .inr h.2⟩

theorem State.Guards.ctrl2 {s : State} (hp : s.params.ok) (h : s.params.closed = true) : s.Guards s.params.ctrl2 :=
  ⟨hp, h, by simp [Params.controlAddrs], .inl rfl⟩

theorem State.act_others_of_no_rivals {s : State} (h : s.others = []) (x : Action) : (s.act x).others = [] := by
  cases x with
  | measure a b | write a b =>
    simp only [State.act]
    split <;> exact h
  | turn k t => simpa only [State.act, State.turn_of_no_rivals h]

theorem State.Guards.act {s : State} {c : Byte} (h : s.Guards c) (x : Action) : (s.act x).Guards c := by
  obtain ⟨hp, hcl, hc, hr⟩ := h
  have he := (act_sameInstance s x).params
  exact ⟨he ▸ hp, he ▸ hcl, he ▸ hc, he ▸ hr.imp id (State.act_others_of_no_rivals · x)⟩

/-- The device itself changes axis data alone, the closed system keeps other software out, and the rivals are
covered by the guard's last clause. -/
theorem State.Guards.act_read {s : State} {c : Byte} (h : s.Guards c) (x : Action) :
    (s.act x).dev.read c = s.dev.read c := by
  obtain ⟨hp, hcl, hc, hr⟩ := h
  cases x with
  | measure a b =>
    simp only [State.act]
    split
    · next ha => exact Memory.read_write_other s.dev b fun e => Params.not_mem_axisAddrs hp hc (e ▸ ha)
    · rfl
  | write a b =>
    simp only [State.act]
    split
    · rfl
    · next ha => exact Memory.read_write_other s.dev b fun e => ha ⟨hcl, e ▸ hc⟩
  | turn k t =>
    rcases hr with rfl | hr
    · exact State.turn_read_ctrl2 hp k t
    · simp only [State.act, State.turn_of_no_rivals hr]

theorem State.Guards.actAll_read {s : State} {c : Byte} (h : s.Guards c) (l : List Action) :
    (s.actAll l).dev.read c = s.dev.read c := by
  induction l generalizing s with
  | nil => rfl
  | cons x l ih => exact (ih (h.act x)).trans (h.act_read x)

theorem State.Guards.actAll {s : State} {c : Byte} (h : s.Guards c) (l : List Action) : (s.actAll l).Guards c := by
  induction l generalizing s with
  | nil => exact h
  | cons x l ih => exact ih (h.act x)

theorem State.Guards.takeDraw {s : State} {c : Byte} (h : s.Guards c) : s.takeDraw.Guards c :=
  ⟨h.paramsOk, h.closed, h.mem, h.rivals⟩

theorem State.Guards.record {s : State} {c : Byte} (h : s.Guards c) (who : Master) (x : BusCall) :
    (s.record who x).Guards c :=
  ⟨h.paramsOk, h.closed, h.mem, h.rivals⟩

theorem State.Guards.popRequest {s : State} {c : Byte} (h : s.Guards c) : s.popRequest.Guards c :=
  ⟨h.paramsOk, h.closed, h.mem, h.rivals⟩

theorem State.Guards.othersAct {s : State} {c : Byte} (h : s.Guards c) : s.othersAct.Guards c := h.takeDraw.actAll _

/-- Whatever is drawn, the other agents leave a guarded register as it is. -/
theorem State.Guards.othersAct_read {s : State} {c : Byte} (h : s.Guards c) : s.othersAct.dev.read c = s.dev.read c :=
  h.takeDraw.actAll_read _

/-! ### Running an operation -/

theorem State.Guards.complete_read {s : State} {c : Byte} (h : s.Guards c) {x : AfterRead} (hx : x.avoids c) :
    (s.complete x).dev.read c = s.dev.read c := by
  cases x with
  | answer => rfl
  | write a b =>
    rw [State.complete_write, State.respond_dev, State.memWrite_read_other _ _ _ _ hx, h.othersAct_read]

/-- An operation keeps a guarded register that its own write avoids. -/
theorem State.Guards.run_read {s : State} {c : Byte} (h : s.Guards c) {rule : Params → Rule}
    (hx : ∀ r, ((rule s.params).afterRead r).avoids c) : (s.run rule).dev.read c = s.dev.read c := by
  rcases s.run_cases rule with ⟨r, -, he⟩ | ⟨a, n, next, hr, ⟨-, he⟩ | ⟨-, he⟩⟩
  · rw [he, State.respond_dev]
  · rw [he, State.respond_dev, State.record_dev, h.othersAct_read]
  · rw [hr] at hx
    rw [he, (h.othersAct.record ..).complete_read (x := next _) (hx _), State.record_dev, h.othersAct_read]

/-! ### The statements -/

/-- Settles O47, by the three kinds of step: the other agents' doings, a rejected request and the run of an
operation. -/
theorem nothingChangesTheFullScaleRange : Obligations.NothingChangesTheFullScaleRange := by
  intro s t ⟨hp, _⟩ hclosed ht
  have hg : s.Guards s.params.ctrl2 := .ctrl2 hp hclosed
  rcases step_cases s with ⟨-, he⟩ | ⟨w, l, e, -, -, he⟩ | ⟨w, l, i, -, -, he⟩ <;>
    obtain rfl := Host.Outcome.next.inj (he.symm.trans ht)
  · exact hg.othersAct_read
  · rfl
  · exact hg.popRequest.run_read (ruleOf_afterRead_avoids_ctrl2 hp i)

/-- Settles O34: each of the three registers is guarded, so only the operation's own write is left to ask about. -/
theorem eachControlRegisterHasItsOnlyWriter : Obligations.EachControlRegisterHasItsOnlyWriter := by
  intro i s t ⟨hp, _⟩ halone ht
  obtain rfl := Host.Outcome.next.inj ((exec_eq_run i s).symm.trans ht)
  have hg : ∀ c ∈ s.params.controlAddrs, s.Guards c := fun c hc => .of_alone hp halone hc
  obtain ⟨-, h13, -⟩ := Params.controlAddrs_distinct hp
  refine ⟨fun hi => ?_, fun hi => ?_, ?_⟩
  · exact (hg _ (by simp [Params.controlAddrs])).run_read (ruleOf_afterRead_avoids (.inl hi) (.inr h13))
  · exact (hg _ (by simp [Params.controlAddrs])).run_read (ruleOf_afterRead_avoids (.inr h13.symm) (.inl hi))
  · exact (hg _ (by simp [Params.controlAddrs])).run_read (ruleOf_afterRead_avoids_ctrl2 hp i)

end Sys2Proof.Machine
end

section
/-! PROOFS. One request at a time: the step's idle case, the run of the decoded operation, and the frame of the eight
operations that write nothing. -/

namespace Sys2Proof.Machine

/-- The eight operations other than SETODR and INTPIN answer with the bytes they read. -/
theorem ruleOf_afterRead_eq_answer {i : Instr} (h1 : ∀ n, i ≠ .setodr n) (h2 : ∀ n, i ≠ .intpin n) (p : Params)
    (r : List Byte) : ∃ x, (ruleOf i p).afterRead r = .answer x := by
  cases h : (ruleOf i p).afterRead r with
  | answer x => exact ⟨x, rfl⟩
  | write a b =>
    rcases ruleOf_write_cases h with ⟨rate, -, hi, -⟩ | ⟨enable, hi, -⟩
    · exact absurd hi (h1 rate)
    · exact absurd hi (h2 enable)

/-- An operation that writes nothing ends as it was, or as the other agents left the system before its read, but for
the record of its read and its response. -/
theorem State.run_cases_of_answers (s : State) {rule : Params → Rule}
    (hx : ∀ r, ∃ x, (rule s.params).afterRead r = .answer x) :
    ∃ r, s.run rule = s.respond r ∨ ∃ c, s.run rule = (s.othersAct.record .self c).respond r := by
  rcases s.run_cases rule with ⟨r, -, he⟩ | ⟨a, n, next, hr, ⟨-, he⟩ | ⟨-, he⟩⟩
  · exact ⟨r, .inl he⟩
  · exact ⟨_, .inr ⟨_, he⟩⟩
  · rw [hr] at hx
    obtain ⟨x, hx⟩ := hx (s.othersAct.bytesAt a n)
    rw [Rule.afterRead] at hx
    rw [hx, State.complete_answer] at he
    exact ⟨x, .inr ⟨_, he⟩⟩

/-- Settles O32: with nobody else acting, taking the draw, recording the read and responding is all that happens. -/
theorem readingOperationsFrame : Obligations.ReadingOperationsFrame := by
  intro i s t h1 h2 hnone ht
  obtain rfl := Host.Outcome.next.inj ((exec_eq_run i s).symm.trans ht)
  obtain ⟨r, he | ⟨c, he⟩⟩ := s.run_cases_of_answers (ruleOf_afterRead_eq_answer h1 h2 s.params) <;>
    simp [he, State.othersAct_of_none hnone]

/-- Settles O11: an idle step is what the other agents do, and they add nothing to RBFC's own calls. -/
theorem idleStepIssuesNothing : Obligations.IdleStepIssuesNothing := by
  intro s h
  exact ⟨s.othersAct, step_idle h, by rw [State.othersAct_requests, h], s.othersAct_responses, s.othersAct_ownCalls,
    s.othersAct_params⟩

/-- Settles O10: accepting the request leaves the words after it, and nothing else changes. -/
theorem stepRunsTheDecodedOperation : Obligations.StepRunsTheDecodedOperation := by
  intro s w l i h hd
  have hpop : s.popRequest = { s with requests := l } := by rw [State.popRequest, h, List.tail_cons]
  rw [step_exec h hd, hpop]

end Sys2Proof.Machine
end

section
/-! PROOFS. The canonical form of the device's registers (`10_state.md` R25) is determined by what it reads as. -/

namespace Sys2Proof.Machine.Memory

/-- With rising addresses and no unlisted byte, the cells are the addresses that read as something else. -/
theorem mem_iff_lookup {m : Memory} (hs : m.Pairwise (fun c d => c.1 < d.1)) (hu : ∀ c ∈ m, c.2 ≠ unlisted)
    (c : Host.Cell) : c ∈ m ↔ lookup m c.1 = c.2 ∧ c.2 ≠ unlisted := by
  induction m with
  | nil => simp [lookup, eq_comm]
  | cons d m ih =>
    obtain ⟨hd, hs⟩ := List.pairwise_cons.1 hs
    have ih := ih hs fun c hc => hu c (by simp [hc])
    by_cases he : d.1 = c.1
    · have hc : c ∉ m := fun hm => (hd c hm).ne he
      have hne := hu d (by simp)
      simp only [List.mem_cons, hc, or_false, lookup, he, if_true, Prod.ext_iff, true_and]
      exact ⟨fun h => ⟨h.symm, h ▸ hne⟩, fun h => h.1.symm⟩
    · have hc : c ≠ d := fun h => he (h ▸ rfl)
      simp [lookup, he, hc, ih]

/-- A cell is one of the 256 registers, holding a byte that is not the unlisted one. -/
theorem mem_iff_read {m : Memory} (h : m.wf) (c : Host.Cell) :
    c ∈ m ↔ c.1 < 256 ∧ m.read (BitVec.ofNat 8 c.1) = c.2 ∧ c.2 ≠ unlisted := by
  by_cases hc : c.1 < 256
  · simp [read, Nat.mod_eq_of_lt hc, hc, mem_iff_lookup h.1 fun c hc => (h.2 c hc).2]
  · exact ⟨fun hm => absurd (h.2 c hm).1 hc, fun hm => absurd hm.1 hc⟩

/-- Settles O36: both lists have the same cells, in the order of their addresses. -/
theorem canonicalRegistersAreEqualWhenTheyReadAlike :
    Obligations.CanonicalRegistersAreEqualWhenTheyReadAlike := by
  intro m n hm hn h
  have hasymm : Std.Asymm (fun c d : Host.Cell => c.1 < d.1) := ⟨fun _ _ => Nat.lt_asymm⟩
  exact hm.1.eq_of_mem_iff hn.1 fun c => by rw [mem_iff_read hm, mem_iff_read hn, h]

end Sys2Proof.Machine.Memory
end

section
/-! PROOFS. No rule reads the record of what crossed the ports (`10_state.md` R22): putting an earlier history before a
state's own commutes with everything an operation does. -/

namespace Sys2Proof.Machine

/-- `s` with the earlier responses `rs` and the earlier transactions `lg` before its own. -/
def State.withHistory (s : State) (rs : List Response) (lg : List Txn) : State :=
  { s with responses := rs ++ s.responses, log := lg ++ s.log }

section History

variable (s : State) (rs : List Response) (lg : List Txn)

@[simp] theorem State.withHistory_params : (s.withHistory rs lg).params = s.params := rfl
@[simp] theorem State.withHistory_dev : (s.withHistory rs lg).dev = s.dev := rfl
@[simp] theorem State.withHistory_others : (s.withHistory rs lg).others = s.others := rfl
@[simp] theorem State.withHistory_nextTransport : (s.withHistory rs lg).nextTransport = s.nextTransport := rfl
@[simp] theorem State.withHistory_bytesAt (a : Byte) (n : Nat) : (s.withHistory rs lg).bytesAt a n = s.bytesAt a n :=
  rfl

@[simp] theorem State.withHistory_readResult (a : Byte) (n : Nat) (t : Transport) :
    (s.withHistory rs lg).readResult a n t = s.readResult a n t := rfl

@[simp] theorem State.withHistory_setDev (m : Memory) :
    (s.withHistory rs lg).setDev m = (s.setDev m).withHistory rs lg := rfl

@[simp] theorem State.withHistory_setRival (k : Nat) (x : Rival) :
    (s.withHistory rs lg).setRival k x = (s.setRival k x).withHistory rs lg := rfl

@[simp] theorem State.withHistory_respond (r : Response) :
    (s.withHistory rs lg).respond r = (s.respond r).withHistory rs lg := by
  simp [State.respond, State.withHistory]

@[simp] theorem State.withHistory_record (who : Master) (c : BusCall) :
    (s.withHistory rs lg).record who c = (s.record who c).withHistory rs lg := by
  simp [State.record, State.withHistory]

@[simp] theorem State.withHistory_memWrite (who : Master) (a b : Byte) (t : Transport) :
    (s.withHistory rs lg).memWrite who a b t =
      ((s.memWrite who a b t).1.withHistory rs lg, (s.memWrite who a b t).2) := by
  unfold State.memWrite
  split <;> simp

@[simp] theorem State.withHistory_finish (who : Master) (x : AfterRead) (t : Transport) :
    (s.withHistory rs lg).finish who x t = ((s.finish who x t).1.withHistory rs lg, (s.finish who x t).2) := by
  cases x with
  | answer => rfl
  | write a b => simp [State.finish]

@[simp] theorem State.withHistory_rivalBegin (k : Nat) (x : Rival) (i : Instr) (t : Transport) :
    (s.withHistory rs lg).rivalBegin k x i t = (s.rivalBegin k x i t).withHistory rs lg := by
  simp only [State.rivalBegin, State.withHistory_params]
  split
  · rfl
  · next a n _ _ =>
    simp only [State.memRead_eq, State.withHistory_readResult, State.withHistory_record]
    cases s.readResult a n t <;> rfl

@[simp] theorem State.withHistory_rivalFinish (k : Nat) (x : Rival) (i : Instr) (r : List Byte) (t : Transport) :
    (s.withHistory rs lg).rivalFinish k x i r t = (s.rivalFinish k x i r t).withHistory rs lg := by
  simp [State.rivalFinish]

@[simp] theorem State.withHistory_turn (k : Nat) (t : Transport) :
    (s.withHistory rs lg).turn k t = (s.turn k t).withHistory rs lg := by
  simp only [State.turn, State.withHistory_others]
  split
  · rfl
  · split
    · exact State.withHistory_rivalFinish ..
    · rfl
    · split
      · rfl
      · exact State.withHistory_rivalBegin ..

@[simp] theorem State.withHistory_act (x : Action) :
    (s.withHistory rs lg).act x = (s.act x).withHistory rs lg := by
  cases x with
  | measure a b => by_cases h : a ∈ s.params.axisAddrs <;> simp [State.act, h]
  | write a b =>
    by_cases h : s.params.closed = true ∧ a ∈ s.params.controlAddrs
    · simp [State.act, h]
    · simp only [State.act, State.withHistory_params, if_neg h, State.withHistory_dev, State.withHistory_setDev,
        State.withHistory_record]
  | turn k t => exact State.withHistory_turn ..

@[simp] theorem State.withHistory_actAll (l : List Action) :
    (s.withHistory rs lg).actAll l = (s.actAll l).withHistory rs lg := by
  induction l generalizing s with
  | nil => rfl
  | cons x l ih => simp [ih]

@[simp] theorem State.withHistory_othersAct : (s.withHistory rs lg).othersAct = s.othersAct.withHistory rs lg :=
  State.withHistory_actAll s.takeDraw rs lg _

@[simp] theorem State.withHistory_complete (x : AfterRead) :
    (s.withHistory rs lg).complete x = (s.complete x).withHistory rs lg := by
  cases x with
  | answer r => simp [State.complete_answer]
  | write a b => simp [State.complete_write]

/-- An operation does the same whatever came before it. -/
theorem State.withHistory_run (rule : Params → Rule) :
    (s.withHistory rs lg).run rule = (s.run rule).withHistory rs lg := by
  rcases s.run_cases rule with ⟨r, hr, he⟩ | ⟨a, n, next, hr, ⟨ht, he⟩ | ⟨ht, he⟩⟩
  · rw [he, State.run_answer (s := s.withHistory rs lg) hr, State.withHistory_respond]
  · rw [he, State.run_readFails (s := s.withHistory rs lg) hr ht]
    simp
  · rw [he, State.run_reads (s := s.withHistory rs lg) hr ht]
    simp

/-- An operation adds exactly one response. -/
theorem State.run_responses (rule : Params → Rule) : ∃ r, (s.run rule).responses = s.responses ++ [r] := by
  rcases s.run_cases rule with ⟨r, -, he⟩ | ⟨a, n, next, -, ⟨-, he⟩ | ⟨-, he⟩⟩
  · exact ⟨r, by simp [he]⟩
  · exact ⟨_, by rw [he, State.respond_responses, State.record_responses, State.othersAct_responses]⟩
  · rw [he]
    cases next (s.othersAct.bytesAt a n) with
    | answer r => exact ⟨r, by simp [State.complete_answer]⟩
    | write b c =>
      exact ⟨_, by rw [State.complete_write, State.respond_responses, State.memWrite_responses,
        State.othersAct_responses, State.record_responses, State.othersAct_responses]⟩

/-- `s` with nothing recorded. -/
def State.forget : State := { s with responses := [], log := [] }

theorem State.forget_withHistory : s.forget.withHistory rs lg = { s with responses := rs, log := lg } := by
  simp [State.forget, State.withHistory]

end History

/-- Settles O42: both runs are the run with nothing recorded, with one history or the other put before it. -/
theorem earlierOutcomesChangeNothing : Obligations.EarlierOutcomesChangeNothing := by
  intro i s t rs lg ht
  obtain rfl := Host.Outcome.next.inj ((exec_eq_run i s).symm.trans ht)
  obtain ⟨r, hr : (s.forget.run (ruleOf i)).responses = [r]⟩ := s.forget.run_responses (ruleOf i)
  have hs : s.run (ruleOf i) = (s.forget.run (ruleOf i)).withHistory s.responses s.log := by
    rw [← State.withHistory_run, State.forget_withHistory]
  refine ⟨(s.forget.run (ruleOf i)).withHistory rs lg, r, (s.forget.run (ruleOf i)).log, ?_⟩
  rw [exec_eq_run, ← State.forget_withHistory, State.withHistory_run, hs]
  simp [State.withHistory, hr]

end Sys2Proof.Machine
end

section
/-! PROOFS. The bus and the device as RBFC meets them (`20_memory.md` sections 1 and 3): what a write leaves behind, the
shape of an operation's own calls, the free samples, and a closed system's control registers. -/

namespace Sys2Proof.Machine

/-! ### One write (R52, R70) -/

theorem State.memWrite_read_same (s : State) (who : Master) (a b : Byte) (t : Transport) :
    (s.memWrite who a b t).1.dev.read a = if t.ok || t.landed then b else s.dev.read a := by
  rw [State.memWrite_dev]
  split
  · exact Memory.read_write_same ..
  · rfl

/-- Settles O35: the transport's draw decides between the attempted byte and the old one; success takes the former. -/
theorem whatAWriteLeavesBehind : Obligations.WhatAWriteLeavesBehind := by
  intro s who a b
  have hsame := s.memWrite_read_same who a b
  refine ⟨fun t => ⟨fun hok => ?_, ?_, fun c hc => s.memWrite_read_other who b t hc⟩,
    ⟨⟨false, false⟩, rfl, hsame _⟩, ⟨⟨false, true⟩, rfl, hsame _⟩⟩
  · rw [hsame, hok, Bool.true_or, if_pos rfl]
  · rw [hsame, or_comm]
    exact ite_eq_or_eq ..

/-! ### The calls of one operation (R60, R62, R63) -/

/-- An operation writes the register it has read. -/
theorem ruleOf_write_address {i : Instr} {p : Params} {a c b : Byte} {n : Nat} {next : List Byte → AfterRead}
    {r : List Byte} (h : ruleOf i p = .read a n next) (hw : next r = .write c b) : c = a := by
  have hafter : (ruleOf i p).afterRead r = .write c b := by rw [h, Rule.afterRead, hw]
  rcases ruleOf_write_cases hafter with ⟨rate, e, rfl, -, rfl, -⟩ | ⟨enable, rfl, -, rfl, -⟩
  · cases h
    rfl
  · simp only [ruleOf, ruleIntpin] at h
    split at h <;> cases h
    rfl

theorem State.complete_write_ownCalls (s : State) (a b : Byte) :
    (s.complete (.write a b)).ownCalls = s.ownCalls ++ [.write a [b] s.nextTransport.ok] := by
  rw [State.complete_write, State.respond_ownCalls, State.memWrite_self_ownCalls, State.othersAct_ownCalls]

/-- Settles O37, by the ways an operation can run: no read, a failed read, a read alone, or a read and a write. -/
theorem atMostOneReadThenOneWrite : Obligations.AtMostOneReadThenOneWrite := by
  intro i s t ht
  obtain rfl := Host.Outcome.next.inj ((exec_eq_run i s).symm.trans ht)
  rcases s.run_cases (ruleOf i) with ⟨r, -, he⟩ | ⟨a, n, next, hr, ⟨-, he⟩ | ⟨-, he⟩⟩
  · exact ⟨[], by simp [he], .inl rfl⟩
  · exact ⟨[.read a n none], by simp [he], .inr (.inl ⟨a, n, none, rfl⟩)⟩
  · generalize s.othersAct.bytesAt a n = bytes at he
    generalize hu : s.othersAct.record .self (.read a n (some bytes)) = u at he
    have hcalls : u.ownCalls = s.ownCalls ++ [.read a n (some bytes)] := by simp [← hu]
    cases hx : next bytes with
    | answer r =>
      exact ⟨_, by rw [he, hx, State.complete_answer, State.respond_ownCalls, hcalls],
        .inr (.inl ⟨a, n, some bytes, rfl⟩)⟩
    | write c b =>
      obtain rfl := ruleOf_write_address hr hx
      exact ⟨[.read c n (some bytes), .write c [b] u.nextTransport.ok],
        by simp [he, hx, State.complete_write_ownCalls, hcalls], .inr (.inr ⟨c, n, bytes, b, _, rfl⟩)⟩

/-! ### The samples are free (R69, R71) -/

/-- A 16-bit pattern is its high byte followed by its low byte (R161). -/
theorem asm16_eq_append (lo hi : Byte) : asm16 lo hi = hi ++ lo := by
  apply BitVec.eq_of_getLsbD_eq
  intro i hi16
  refine Eq.trans ?_ BitVec.getLsbD_append.symm
  by_cases h : i < 8
  · simp [asm16, zext16, hi16, h]
  · simp [asm16, zext16, hi16, h, BitVec.getLsbD_of_ge lo i (by omega)]

/-- The three selectors are recognised (R160). -/
theorem axisAddr_of_le {axis : Nat} (h : axis ≤ 2) (p : Params) : ∃ a, axisAddr p axis = some a := by
  interval_cases axis <;> exact ⟨_, rfl⟩

/-- Both bytes of an axis pair are axis data registers (R30). -/
theorem mem_axisAddrs_of_mem_axisBases {p : Params} {a : Byte} (h : a ∈ axisBases p) :
    a ∈ p.axisAddrs ∧ a + 1 ∈ p.axisAddrs := by
  simp only [axisBases, List.mem_cons, List.not_mem_nil, or_false] at h
  rcases h with rfl | rfl | rfl <;> simp [Params.axisAddrs]

/-- The device measures `lo` and `hi` into the axis pair at `a`, and the bus call after that succeeds. -/
def sampleDraw (a lo hi : Byte) : Draw := ⟨[.measure a lo, .measure (a + 1) hi], ⟨true, false⟩⟩

@[simp] theorem State.act_params (s : State) (x : Action) : (s.act x).params = s.params := (act_sameInstance s x).params

theorem State.act_measure_dev {s : State} {a : Byte} (b : Byte) (h : a ∈ s.params.axisAddrs) :
    (s.act (.measure a b)).dev = s.dev.write a b := by
  rw [State.act, if_pos h, State.setDev_dev]

theorem State.othersAct_dev_of_sampleDraw {s : State} {a lo hi : Byte} (hd : s.nextDraw = sampleDraw a lo hi)
    (ha : a ∈ axisBases s.params) : s.othersAct.dev = (s.dev.write a lo).write (a + 1) hi := by
  obtain ⟨hlo, hhi⟩ := mem_axisAddrs_of_mem_axisBases ha
  have hfirst : (s.takeDraw.act (.measure a lo)).dev = s.dev.write a lo := State.act_measure_dev lo hlo
  rw [State.othersAct, hd, sampleDraw, State.actAll_cons, State.actAll_cons, State.actAll_nil,
    State.act_measure_dev hi (by rwa [State.act_params]), hfirst]

/-- The two bytes the device holds at the pair are then the sample: the second measurement is at another address. -/
theorem State.othersAct_bytesAt_of_sampleDraw {s : State} {a lo hi : Byte} (hd : s.nextDraw = sampleDraw a lo hi)
    (ha : a ∈ axisBases s.params) : s.othersAct.bytesAt a 2 = [lo, hi] := by
  have hne : a ≠ a + 1 := by bv_omega
  rw [State.bytesAt_two, State.othersAct_dev_of_sampleDraw hd ha, Memory.read_write_same,
    Memory.read_write_other _ _ hne, Memory.read_write_same]

/-- The rule of RDAXIS with a destination and a recognised selector (R163). -/
theorem ruleOf_rdaxis {p : Params} {axis : Nat} {a : Byte} (h : axisAddr p axis = some a) :
    ruleOf (.rdaxis true axis) p =
      .read a 2 fun r => .answer (.ok (some (asm16 (byteAt r 0) (byteAt r 1)))) := by
  simp [ruleOf, ruleRdaxis, h]

/-- Settles O31: before the read the device measures the two bytes into the axis pair, and the read succeeds. -/
theorem anySampleCanBeRead : Obligations.AnySampleCanBeRead := by
  intro s axis lo hi haxis
  obtain ⟨a, ha⟩ := axisAddr_of_le haxis s.params
  let s' : State := { s with draws := [sampleDraw a lo hi] }
  have hbytes : s'.othersAct.bytesAt a 2 = [lo, hi] :=
    State.othersAct_bytesAt_of_sampleDraw rfl (axisAddr_mem_axisBases ha)
  have hrun := State.run_reads (s := s') (ruleOf_rdaxis ha) rfl
  refine ⟨_, _, exec_eq_run _ s', ?_⟩
  rw [hrun, hbytes, State.complete_answer, byteAt_zero, byteAt_one, asm16_eq_append]
  simp [s']

/-! ### A closed system with no rivals (R11, R69) -/

/-- No action of another agent opens the system or adds a rival to it. -/
theorem State.alone_act {s : State} (h : s.alone) (x : Action) : (s.act x).alone := by
  obtain ⟨hclosed, hothers⟩ := h
  exact ⟨by rw [State.act_params, hclosed], State.act_others_of_no_rivals hothers x⟩

theorem State.alone_actAll {s : State} (h : s.alone) (l : List Action) : (s.actAll l).alone := by
  induction l generalizing s with
  | nil => exact h
  | cons x l ih => exact ih (State.alone_act h x)

theorem State.alone_othersAct {s : State} (h : s.alone) : s.othersAct.alone :=
  State.alone_actAll (s := s.takeDraw) h _

/-- Settles O38: each of the three registers is guarded. -/
theorem closedSystemKeepsControlRegisters : Obligations.ClosedSystemKeepsControlRegisters := by
  intro s hp halone
  exact ⟨State.alone_othersAct halone, fun a ha => (State.Guards.of_alone hp halone ha).othersAct_read⟩

end Sys2Proof.Machine
end

section
/-! PROOFS. The encoder and the decoder are each other's inverse (`30_encoding.md` R80 to R84), and the request words
that the spec writes out. -/

namespace Sys2Proof

/-! ### From an operation to its word and back -/

@[simp] theorem requestWord_destination (op : BitVec 4) (dv : Bool) (a b c : Byte) :
    (requestWord op dv a b c).destination = dv := by
  cases dv <;> simp [Request.destination]

/-- Settles O3, operation by operation: its word has its row's opcode and no field that the row wants 0, and the fields
it does use give the operands back. -/
theorem decodeOfEncode : Obligations.DecodeOfEncode := by
  intro i hi
  rw [decode_eq]
  cases i with
  | extract _ _ shift | insert _ _ shift =>
    have hc : (shift.setWidth 8).toNat ≤ 7 := by
      rw [Laws.EncodingFields.toNat_shift]
      omega
    simpa [encode, Request.shift_eq] using hc
  | odrenc | setodr | intpin | rdaxis => simp [encode, Laws.EncodingFields.toNat_small hi]
  | odrdec | asm16 | getfs | getodr => simp [encode]

/-! ### From a word to its operation and back -/

theorem Request.ofBool_destination (w : Request) : BitVec.ofBool w.destination = w.dv := by
  unfold Request.destination
  generalize w.dv = x
  revert x
  decide

/-- A `C` that is at most 7 is its shift amount, with the upper bits 0 (R84). -/
theorem Request.setWidth_shift {w : Request} (h : w.c.toNat ≤ 7) : w.shift.setWidth 8 = w.c := by
  rw [Request.shift_eq]
  generalize w.c = c at h
  revert c
  decide

/-- An operand that is a field of a word fits its field (R81). -/
theorem decide_toNat_le (b : Byte) : decide (b.toNat ≤ 255) = true := decide_eq_true (by omega)

/-- A word built from the fields of `w` is `w`, if `w` has no bit set in `RSV`. -/
theorem requestWord_eq {w : Request} {op : BitVec 4} {dv : Bool} {a b c : Byte} (hop : w.op = op)
    (hdv : w.dv = BitVec.ofBool dv) (hrsv : w.rsv = 0) (ha : w.a = a) (hb : w.b = b) (hc : w.c = c) :
    requestWord op dv a b c = w := by
  apply Request.ext_fields <;> simp [hop, hdv, hrsv, ha, hb, hc]

section RowWords

variable {w : Request} {op : BitVec 4}

/-- A word that selects the row of EXTRACT or INSERT. -/
theorem requestWord_eq_of_shift (h : w.op = op ∧ w.dv = 0 ∧ w.rsv = 0 ∧ w.c.toNat ≤ 7) :
    requestWord op false w.a w.b (w.shift.setWidth 8) = w := by
  obtain ⟨hop, hdv, hrsv, hc⟩ := h
  exact requestWord_eq hop hdv hrsv rfl rfl (Request.setWidth_shift hc).symm

/-- A word that selects the row of an operation whose one operand is `A`. -/
theorem requestWord_eq_of_a (h : w.op = op ∧ w.dv = 0 ∧ w.rsv = 0 ∧ w.b = 0 ∧ w.c = 0) :
    requestWord op false w.a 0 0 = w := by
  obtain ⟨hop, hdv, hrsv, hb, hc⟩ := h
  exact requestWord_eq hop hdv hrsv rfl hb hc

/-- The same, where the operation holds its operand as a number. -/
theorem requestWord_eq_of_number (h : w.op = op ∧ w.dv = 0 ∧ w.rsv = 0 ∧ w.b = 0 ∧ w.c = 0) :
    requestWord op false (BitVec.ofNat 8 w.a.toNat) 0 0 = w := by
  rw [BitVec.ofNat_toNat, BitVec.setWidth_eq, requestWord_eq_of_a h]

/-- A word that selects the row of an operation with a destination and no operand. -/
theorem requestWord_eq_of_destination (h : w.op = op ∧ w.rsv = 0 ∧ w.a = 0 ∧ w.b = 0 ∧ w.c = 0) :
    requestWord op w.destination 0 0 0 = w := by
  obtain ⟨hop, hrsv, ha, hb, hc⟩ := h
  exact requestWord_eq hop w.ofBool_destination.symm hrsv ha hb hc

end RowWords

/-- Settles O4, row by row: the row's match value and the operands fix every field of the word. -/
theorem encodeOfDecode : Obligations.EncodeOfDecode := by
  intro w i h
  rw [decode_eq] at h
  split_ifs at h with h0 h1 h2 h3 h4 h8 h9 hA hB hC <;> cases h
  · exact ⟨rfl, requestWord_eq_of_shift h0⟩
  · exact ⟨rfl, requestWord_eq_of_shift h1⟩
  · exact ⟨decide_toNat_le w.a, requestWord_eq_of_number h2⟩
  · exact ⟨rfl, requestWord_eq_of_a h3⟩
  · obtain ⟨hop, hdv, hrsv, hc⟩ := h4
    exact ⟨rfl, requestWord_eq hop hdv hrsv rfl rfl hc⟩
  · exact ⟨rfl, requestWord_eq_of_destination h8⟩
  · exact ⟨decide_toNat_le w.a, requestWord_eq_of_number h9⟩
  · exact ⟨rfl, requestWord_eq_of_destination hA⟩
  · exact ⟨decide_toNat_le w.a, requestWord_eq_of_number hB⟩
  · obtain ⟨hop, hrsv, hb, hc⟩ := hC
    exact ⟨decide_toNat_le w.a, requestWord_eq hop w.ofBool_destination.symm hrsv (by simp) hb hc⟩

/-- Settles O8: each word is the word of its operation, so it decodes to it. -/
theorem sampleWordsDecode : Obligations.SampleWordsDecode := by
  have hword : ∀ {i : Instr} {w : Request}, i.wellFormed = true → encode i = w → decode w = .ok i :=
    fun hi he => he ▸ decodeOfEncode _ hi
  refine ⟨?_, ?_, ?_, ?_, ?_, ?_, ?_, ?_, ?_, ?_, ?_, ?_⟩ <;> exact hword rfl (by decide)

end Sys2Proof
end

section
/-! PROOFS. Which words are reserved encodings (`30_encoding.md` R84 to R86): at most one row of the opcode map is
selected, none exactly when a field is wrong, and then the request is answered without the bus. -/

namespace Sys2Proof

/-! ### The rows exclude each other (R85) -/

/-- The opcode of a row's words. -/
def Row.op (r : Row) : BitVec 4 := r.value.op

/-- A row whose mask covers the opcode field is selected only by words with its opcode. -/
theorem Row.op_of_selects {r : Row} {w : Request} (hmask : r.mask.op = 15) (h : r.selects w = true) : r.op = w.op := by
  obtain ⟨hop, -⟩ := (Request.and_eq_iff w r.mask r.value).1 (eq_of_beq h)
  rw [Row.op, ← hop, hmask]
  exact and_allOnes4 w.op

/-- In a list of rows with different opcodes a word selects one row, which it decodes to, or none. -/
theorem tryRows_selects_cases (w : Request) {rows : List Row} (hmask : ∀ r ∈ rows, r.mask.op = 15)
    (hops : (rows.map Row.op).Nodup) :
    (∃ r, rows.filter (fun r => r.selects w) = [r] ∧ tryRows w rows = .ok (r.build w)) ∨
      (rows.filter (fun r => r.selects w) = [] ∧ ∃ e, tryRows w rows = .error e) := by
  induction rows with
  | nil => exact .inr ⟨rfl, _, rfl⟩
  | cons r rows ih =>
    obtain ⟨hr, hmask⟩ := List.forall_mem_cons.1 hmask
    obtain ⟨hnew, hops⟩ := List.nodup_cons.1 hops
    cases hsel : r.selects w with
    | false => simpa [tryRows, hsel] using ih hmask hops
    | true =>
      have hrest : rows.filter (fun r => r.selects w) = [] := by
        rw [List.filter_eq_nil_iff]
        intro x hx hxsel
        have hop : x.op = r.op := (Row.op_of_selects (hmask x hx) hxsel).trans (Row.op_of_selects hr hsel).symm
        exact hnew (hop ▸ List.mem_map_of_mem hx)
      exact .inl ⟨r, by simp [hsel, hrest], by simp [tryRows, hsel]⟩

/-- Settles O5: the ten rows have different opcodes, and each looks at the whole opcode field. -/
theorem everyWordMatchesOneRowOrIsReserved : Obligations.EveryWordMatchesOneRowOrIsReserved := by
  intro w
  have hmask : ∀ r ∈ opcodeMap, r.mask.op = 15 := by
    simp only [opcodeMap, List.forall_mem_cons]
    decide
  have hops : (opcodeMap.map Row.op).Nodup := by decide
  exact tryRows_selects_cases w hmask hops

/-! ### The reserved encodings (R84, R86) -/

/-- The opcodes of the ten rows and the unused ones are all there are. -/
theorem mem_unusedOpcodes_or_row (x : BitVec 4) : x ∈ unusedOpcodes ∨ x ∈ opcodeMap.map Row.op := by
  revert x
  decide

/-- A word with an unused opcode selects no row, whatever its other fields are. -/
theorem decode_of_unusedOpcode {w : Request} (h : w.op ∈ unusedOpcodes) : decode w = .error .unusedOpcode := by
  have hreason : rejectReason w = .unusedOpcode := if_pos h
  rw [decode_eq, hreason]
  simp only [unusedOpcodes, List.mem_cons, List.not_mem_nil, or_false] at h
  rcases h with h | h | h | h | h | h <;> simp [h]

theorem exists_ite_eq_error_iff {p : Prop} [Decidable p] {i : Instr} {e : Reject} :
    (∃ e', (if p then Except.ok i else .error e) = .error e') ↔ ¬p := by
  by_cases h : p <;> simp [h]

/-- Settles O6: an unused opcode is reserved and rejected; with a row's opcode the word is rejected when that one row's
condition on the other fields fails, and `Request.reserved` lists the ways it can. -/
theorem reservedEncodingsByTheirFields : Obligations.ReservedEncodingsByTheirFields := by
  intro w
  rcases mem_unusedOpcodes_or_row w.op with h | h
  · exact ⟨fun _ => by simp [Request.reserved, h], fun _ => ⟨_, decode_of_unusedOpcode h⟩⟩
  · rw [decode_eq]
    have hop : w.op ∈ ([0x0, 0x1, 0x2, 0x3, 0x4, 0x8, 0x9, 0xA, 0xB, 0xC] : List (BitVec 4)) := h
    simp only [List.mem_cons, List.not_mem_nil, or_false] at hop
    rcases hop with h | h | h | h | h | h | h | h | h | h <;>
      simp [h, exists_ite_eq_error_iff, Request.reserved, unusedOpcodes] <;> tauto

end Sys2Proof

namespace Sys2Proof.Machine

/-- Settles O7: the decoder rejects the word, and the step's answer to that touches the two ports only. -/
theorem reservedRequestIsAnsweredWithoutBus : Obligations.ReservedRequestIsAnsweredWithoutBus := by
  intro s w l h hres
  obtain ⟨e, he⟩ := (reservedEncodingsByTheirFields w).2 hres
  rw [step_reserved h he]
  simp [State.rejectRequest, State.respond, State.popRequest, reservedResponse, h]

end Sys2Proof.Machine
end

section
/-! PROOFS. The source's calls (`30_encoding.md` R93): which have a request word, and that an operand too wide for one is
turned away as the widest that has one is. -/

namespace Sys2Proof

theorem SourceCall.request_of_wellFormed {c : SourceCall} (h : c.instr.wellFormed = true) :
    c.request = some (Sys2Proof.encode c.instr) := if_pos h

theorem SourceCall.request_of_not_wellFormed {c : SourceCall} (h : c.instr.wellFormed = false) :
    c.request = none := by
  simp [SourceCall.request, h]

namespace Machine

/-- Rates that encode alike have one ODRENC. -/
theorem ruleOf_odrenc_congr {m n : Nat} (h : odrEncode m = odrEncode n) :
    ruleOf (.odrenc m) = ruleOf (.odrenc n) := by
  funext p
  simp only [ruleOf, ruleOdrenc, h]

/-- Rates that encode alike have one SETODR. -/
theorem ruleOf_setodr_congr {m n : Nat} (h : odrEncode m = odrEncode n) :
    ruleOf (.setodr m) = ruleOf (.setodr n) := by
  funext p
  simp only [ruleOf, ruleSetodr, h]

/-- INTPIN turns away every operand but 0 and 1 alike. -/
theorem ruleOf_intpin_invalid {n : Nat} (h : 2 ≤ n) (p : Params) :
    ruleOf (.intpin n) p = .answer (.deviceError .invalidEnable) :=
  if_pos (by omega)

theorem axisAddr_unknown {n : Nat} (h : 3 ≤ n) (p : Params) : axisAddr p n = none := by
  have hx : n ≠ axisX := by unfold axisX; omega
  have hy : n ≠ axisY := by unfold axisY; omega
  have hz : n ≠ axisZ := by unfold axisZ; omega
  simp [axisAddr, hx, hy, hz]

/-- RDAXIS turns away every selector above 2 alike. -/
theorem ruleOf_rdaxis_unknown {m n : Nat} (hm : 3 ≤ m) (hn : 3 ≤ n) (dv : Bool) :
    ruleOf (.rdaxis dv m) = ruleOf (.rdaxis dv n) := by
  funext p
  simp only [ruleOf, ruleRdaxis, axisAddr_unknown hm, axisAddr_unknown hn]

end Machine

open Machine

/-- Settles O9: the word of a well-formed operation decodes to it, and no operand above 255 is a rate, an enable value or
a selector, as 255 is none. -/
theorem wideOperandsAreTreatedAsReservedOnes : Obligations.WideOperandsAreTreatedAsReservedOnes := by
  refine ⟨?_, fun c => ⟨fun h => ?_, SourceCall.request_of_not_wellFormed⟩, fun s n hn => ?_⟩
  · refine ⟨?_, ?_, ?_, ?_, ?_, ?_, ?_, ?_, ?_, ?_, ?_, ?_, ?_, ?_⟩ <;> intros <;> rfl
  · exact ⟨_, SourceCall.request_of_wellFormed h, decodeOfEncode _ h⟩
  · have hwide : decide (n ≤ 255) = false := decide_eq_false (by omega)
    have hrate : odrEncode n = odrEncode 255 := by
      rw [odrEncode_undefined (by omega), odrEncode_undefined (by omega)]
    have hintpin : ruleOf (.intpin n) = ruleOf (.intpin 255) := by
      funext p
      rw [ruleOf_intpin_invalid (by omega), ruleOf_intpin_invalid (by omega)]
    have hnone : ∀ {c : SourceCall}, c.instr.wellFormed = decide (n ≤ 255) → c.request = none :=
      fun hc => SourceCall.request_of_not_wellFormed (hc.trans hwide)
    refine ⟨hnone rfl, hnone rfl, hnone rfl, fun dest => hnone rfl, ?_, ?_, ?_, fun dv => ?_⟩ <;>
      rw [exec_eq_run, exec_eq_run]
    · rw [ruleOf_odrenc_congr hrate]
    · rw [ruleOf_setodr_congr hrate]
    · rw [hintpin]
    · rw [ruleOf_rdaxis_unknown (n := 255) (by omega) (by omega)]

end Sys2Proof
end

section
/-! PROOFS. The datum of a response (`30_encoding.md` R82): what an operation's rule can answer, and how its run ends. -/

namespace Sys2Proof.Machine

/-- What operation `i` may show on the response port: a datum exactly when it ends Ok and returns one, and a byte's
datum unless it is ASM16 or RDAXIS. -/
def Response.Suits (r : Response) (i : Instr) : Prop :=
  (r.port.2.isSome = true ↔ r.port.1 = 0 ∧ (∀ n, i ≠ .setodr n) ∧ ∀ n, i ≠ .intpin n) ∧
    ((∀ l h, i ≠ .asm16 l h) → (∀ dv n, i ≠ .rdaxis dv n) → ∀ d, r.port.2 = some d → d.toNat < 256)

theorem Response.deviceError_suits (c : DeviceCause) (i : Instr) : (Response.deviceError c).Suits i := by
  simp [Response.Suits, Response.port, Response.status, Response.data, StatusCode.code]

theorem Response.busError_suits (c : BusCause) (i : Instr) : (Response.busError c).Suits i := by
  simp [Response.Suits, Response.port, Response.status, Response.data, StatusCode.code]

/-- SETODR and INTPIN end Ok with no datum. -/
theorem Response.ok_none_suits {i : Instr} (h : (∃ n, i = .setodr n) ∨ ∃ n, i = .intpin n) :
    (Response.ok none).Suits i := by
  rcases h with ⟨n, rfl⟩ | ⟨n, rfl⟩ <;>
    simp [Response.Suits, Response.port, Response.status, Response.data, StatusCode.code]

/-- The other eight end Ok with one. -/
theorem Response.ok_some_suits {i : Instr} {d : Half} (h1 : ∀ n, i ≠ .setodr n) (h2 : ∀ n, i ≠ .intpin n)
    (hd : (∀ l h, i ≠ .asm16 l h) → (∀ dv n, i ≠ .rdaxis dv n) → d.toNat < 256) :
    (Response.ok (some d)).Suits i := by
  refine ⟨iff_of_true rfl ⟨rfl, h1, h2⟩, fun ha hr x hx => ?_⟩
  obtain rfl := Option.some.inj hx
  exact hd ha hr

theorem zext16_toNat_lt (b : Byte) : (zext16 b).toNat < 256 := by
  rw [zext16, BitVec.toNat_setWidth]
  omega

/-- A decoded rate is one of the twelve enumerators (R130, R135). -/
theorem odrDecode_le {b : Byte} {rate : Nat} (h : odrDecode b = some rate) : rate ≤ 11 := by
  have hall : ∀ b : Byte, ∀ rate ∈ odrDecode b, rate ≤ 11 := by decide
  exact hall b rate h

/-- Every byte decodes (R135), so ODRDEC and GETODR have a datum of 8 bits. -/
theorem decodedResponse_eq_ok (b : Byte) :
    ∃ d : Half, decodedResponse (odrDecode b) = .ok (some d) ∧ d.toNat < 256 := by
  obtain ⟨rate, h⟩ := Option.isSome_iff_exists.1 (odrDecode_isSome b)
  have := odrDecode_le h
  exact ⟨BitVec.ofNat 16 rate, by rw [h, decodedResponse], by rw [BitVec.toNat_ofNat]; omega⟩

/-- An answer of an operation's rule, before or after its read. -/
theorem ruleOf_answer_suits {i : Instr} {p : Params} {r : Response} {bytes : List Byte}
    (h : (ruleOf i p).afterRead bytes = .answer r) : r.Suits i := by
  cases i with
  | extract | insert =>
    cases h
    exact Response.ok_some_suits nofun nofun fun _ _ => zext16_toNat_lt _
  | asm16 l h =>
    cases h
    exact Response.ok_some_suits nofun nofun fun hn => absurd rfl (hn l h)
  | odrenc rate =>
    simp only [ruleOf, ruleOdrenc] at h
    split at h <;> cases h
    · exact Response.deviceError_suits ..
    · exact Response.ok_some_suits nofun nofun fun _ _ => zext16_toNat_lt _
  | odrdec byte =>
    obtain ⟨d, hd, hlt⟩ := decodedResponse_eq_ok byte
    cases h
    rw [hd]
    exact Response.ok_some_suits nofun nofun fun _ _ => hlt
  | getfs dv =>
    cases dv with
    | false => cases h; exact Response.deviceError_suits ..
    | true =>
      simp only [ruleOf, ruleGetfs, Bool.true_eq_false, if_false, Rule.afterRead,
        if_neg (fullScale_code_le (byteAt bytes 0))] at h
      cases h
      exact Response.ok_some_suits nofun nofun fun _ _ => zext16_toNat_lt _
  | getodr dv =>
    cases dv with
    | false => cases h; exact Response.deviceError_suits ..
    | true =>
      obtain ⟨d, hd, hlt⟩ := decodedResponse_eq_ok (byteAt bytes 0)
      cases h
      rw [hd]
      exact Response.ok_some_suits nofun nofun fun _ _ => hlt
  | setodr rate =>
    simp only [ruleOf, ruleSetodr, Rule.afterRead] at h
    split at h <;> cases h
    exact Response.deviceError_suits ..
  | intpin enable =>
    simp only [ruleOf, ruleIntpin] at h
    split at h <;> cases h
    exact Response.deviceError_suits ..
  | rdaxis dv axis =>
    cases dv with
    | false => cases h; exact Response.deviceError_suits ..
    | true =>
      simp only [ruleOf, ruleRdaxis, Bool.true_eq_false, if_false] at h
      split at h <;> cases h
      · exact Response.deviceError_suits ..
      · exact Response.ok_some_suits nofun nofun fun _ hn => absurd rfl (hn true axis)

/-- The response to a write, which only SETODR and INTPIN issue. -/
theorem writeResponse_suits {i : Instr} {p : Params} {a b : Byte} {bytes : List Byte}
    (h : (ruleOf i p).afterRead bytes = .write a b) (ok : Bool) : (writeResponse ok).Suits i := by
  cases ok with
  | false => exact Response.busError_suits ..
  | true =>
    rcases ruleOf_write_cases h with ⟨rate, -, hi, -⟩ | ⟨enable, hi, -⟩
    · exact Response.ok_none_suits (.inl ⟨rate, hi⟩)
    · exact Response.ok_none_suits (.inr ⟨enable, hi⟩)

/-- However its run goes, an operation's response is its own. -/
theorem State.run_lastResponse_suits (s : State) (i : Instr) :
    ∃ r, (s.run (ruleOf i)).lastResponse = some r ∧ r.Suits i := by
  rcases s.run_cases (ruleOf i) with ⟨r, hr, he⟩ | ⟨a, n, next, hr, ⟨-, he⟩ | ⟨-, he⟩⟩
  · have hafter : (ruleOf i s.params).afterRead [] = .answer r := by rw [hr, Rule.afterRead]
    exact ⟨r, by rw [he, State.respond_lastResponse], ruleOf_answer_suits hafter⟩
  · exact ⟨_, by rw [he, State.respond_lastResponse], Response.busError_suits ..⟩
  · rw [he]
    have hnext : (ruleOf i s.params).afterRead (s.othersAct.bytesAt a n) = next (s.othersAct.bytesAt a n) := by
      rw [hr, Rule.afterRead]
    cases hx : next (s.othersAct.bytesAt a n) with
    | answer r => exact ⟨r, State.respond_lastResponse .., ruleOf_answer_suits (hnext.trans hx)⟩
    | write c b => exact ⟨_, State.respond_lastResponse .., writeResponse_suits (hnext.trans hx) _⟩

/-- Settles O40: the response that the run ends in suits the operation. -/
theorem datumExactlyOnOk : Obligations.DatumExactlyOnOk := by
  intro i s t r ht hlast
  obtain rfl := Host.Outcome.next.inj ((exec_eq_run i s).symm.trans ht)
  obtain ⟨r', hr', hsuits⟩ := s.run_lastResponse_suits i
  obtain rfl := Option.some.inj (hr'.symm.trans hlast)
  exact hsuits

end Sys2Proof.Machine
end

section
/-! PROOFS. The Register Codec (`40_register_codec.md`): the two operations' data as numbers (R110 to R113), and the
laws of the two functions (R114), each read off bit by bit or from the laws before it. -/

namespace Sys2Proof.Machine

/-! ### The two operations (R111, R113) -/

/-- An inserted field is the value times the shift's weight, cut by the mask: no bit is lost before the cut. -/
theorem fieldInsert_toNat (v m : Byte) (s : BitVec 3) :
    (fieldInsert v m s).toNat = v.toNat * 2 ^ s.toNat &&& m.toNat := by
  have hweight : 2 ^ s.toNat ≤ 2 ^ 7 := Nat.pow_le_pow_right (by decide) (by omega)
  have hshift : v.toNat * 2 ^ s.toNat < 2 ^ 15 := by
    calc v.toNat * 2 ^ s.toNat < 2 ^ 8 * 2 ^ 7 := Nat.mul_lt_mul_of_lt_of_le v.isLt hweight (by decide)
      _ = 2 ^ 15 := by decide
  have hcut : v.toNat * 2 ^ s.toNat &&& m.toNat < 2 ^ 8 := Nat.and_lt_two_pow _ m.isLt
  rw [fieldInsert, BitVec.toNat_setWidth, BitVec.toNat_and, BitVec.toNat_shiftLeft,
    BitVec.toNat_setWidth_of_le (by decide), BitVec.toNat_setWidth_of_le (by decide), Nat.shiftLeft_eq,
    Nat.mod_eq_of_lt hshift, Nat.mod_eq_of_lt hcut]

/-- Settles O12: EXTRACT's rule answers at once, with the field as a number. -/
theorem extractResult : Obligations.ExtractResult := by
  intro s byte mask shift
  rw [exec_eq_run, State.run_answer rfl, ← fieldExtract_toNat, BitVec.ofNat_toNat]
  rfl

/-- Settles O13: INSERT's rule answers at once, with the field as a number. -/
theorem insertResult : Obligations.InsertResult := by
  intro s value mask shift
  rw [exec_eq_run, State.run_answer rfl, ← fieldInsert_toNat, BitVec.ofNat_toNat]
  rfl

/-! ### The laws (R114) -/

/-- An inserted field has no bit outside its mask. -/
theorem fieldInsert_and_not_mask (v m : Byte) (s : BitVec 3) : fieldInsert v m s &&& ~~~m = 0 := by
  apply BitVec.eq_of_getLsbD_eq
  intro i hi
  rw [BitVec.getLsbD_and, fieldInsert_getLsbD v m s hi, BitVec.getLsbD_not]
  cases m.getLsbD i <;> simp

/-- Extracting what was inserted returns the value cut to the field. -/
theorem fieldExtract_fieldInsert (v m : Byte) (s : BitVec 3) :
    fieldExtract (fieldInsert v m s) m s = v &&& (m >>> s.toNat) := by
  apply BitVec.eq_of_getLsbD_eq
  intro i _
  rw [fieldExtract_getLsbD, BitVec.getLsbD_and, BitVec.getLsbD_ushiftRight]
  by_cases h : s.toNat + i < 8
  · simp [fieldInsert_getLsbD v m s h]
  · simp [BitVec.getLsbD_of_ge m _ (Nat.le_of_not_lt h)]

/-- Inserting what was extracted returns the byte's bits under the mask, but for those below the shift. -/
theorem fieldInsert_fieldExtract (b m : Byte) (s : BitVec 3) :
    fieldInsert (fieldExtract b m s) m s = b &&& m &&& ~~~(BitVec.ofNat 8 (2 ^ s.toNat - 1)) := by
  apply BitVec.eq_of_getLsbD_eq
  intro i hi
  rw [fieldInsert_getLsbD _ m s hi, fieldExtract_getLsbD, BitVec.getLsbD_and, BitVec.getLsbD_and, BitVec.getLsbD_not,
    BitVec.getLsbD_ofNat, Nat.testBit_two_pow_sub_one]
  by_cases h : s.toNat ≤ i
  · simp [h, hi, Nat.add_sub_cancel' h]
  · simp [h, hi, Nat.lt_of_not_le h]

/-- Extracting distributes over OR. -/
theorem fieldExtract_or (b c m : Byte) (s : BitVec 3) :
    fieldExtract (b ||| c) m s = fieldExtract b m s ||| fieldExtract c m s := by
  rw [fieldExtract, BitVec.and_or_distrib_right, BitVec.ushiftRight_or_distrib, fieldExtract, fieldExtract]

/-- Settles O14: the laws about OR follow from those about one inserted field, and the field constants' case from two
facts about each of the five: its mask has no bit below its shift, and a value that fits has no bit outside it. -/
theorem codecLaws : Obligations.CodecLaws := by
  refine ⟨fun b v m s => ⟨fieldInsert_and_not_mask v m s, fieldExtract_fieldInsert v m s,
    fieldInsert_fieldExtract b m s, ?_, ?_⟩, fun f hf => ?_⟩
  · rw [BitVec.and_or_distrib_right, fieldInsert_and_not_mask]
    exact BitVec.or_zero
  · rw [fieldExtract_or, fieldExtract_fieldInsert]
  · have haligned : f.1 &&& ~~~(BitVec.ofNat 8 (2 ^ f.2.1.toNat - 1)) = f.1 := by
      revert f
      decide
    have hfits : ∀ v : Byte, v.toNat ≤ f.2.2 → v &&& (f.1 >>> f.2.1.toNat) = v := by
      revert f
      decide
    exact ⟨fun v hv => by rw [fieldExtract_fieldInsert, hfits v hv],
      fun b => by rw [fieldInsert_fieldExtract, BitVec.and_assoc, haligned]⟩

end Sys2Proof.Machine
end

section
/-! PROOFS. The full-scale query (`41_full_scale.md`): its rule without the defensive check that cannot fire (R122), its
datum as bits 6:5 of the byte (R123), and its outcomes (R120). -/

namespace Sys2Proof.Machine

/-- The full-scale code is bits 6:5 of the byte. -/
theorem fullScale_code_toNat (b : Byte) : (fieldExtract b fsMask fsShift).toNat = b.toNat / 32 % 4 :=
  calc (fieldExtract b fsMask fsShift).toNat
    _ = (b.toNat &&& 96) / 2 ^ 5 := fieldExtract_toNat b fsMask fsShift
    _ = b.toNat / 2 ^ 5 &&& 2 ^ 2 - 1 := Nat.and_div_two_pow
    _ = b.toNat / 32 % 4 := Nat.and_two_pow_sub_one_eq_mod ..

/-- With a destination, GETFS reads control-2 and answers Ok with the code: R120 without its dead branch. -/
theorem ruleGetfs_true (p : Params) : ruleGetfs true p = .read p.ctrl2 1 fun r =>
    .answer (.ok (some (BitVec.ofNat 16 ((byteAt r 0).toNat / 32 % 4)))) := by
  have hdatum (b : Byte) : zext16 (fieldExtract b fsMask fsShift) = BitVec.ofNat 16 (b.toNat / 32 % 4) := by
    rw [← fullScale_code_toNat, BitVec.ofNat_toNat, zext16]
  simp only [ruleGetfs, Bool.true_eq_false, if_false, if_neg (fullScale_code_le _), hdatum]

/-- Settles O24: without a destination GETFS answers at once; with one, the draw decides how its one read ends. -/
theorem getfsOutcomes : Obligations.GetfsOutcomes := by
  intro s
  have hrule : ruleOf (.getfs true) s.params = _ := ruleGetfs_true s.params
  refine ⟨?_, fun hfail => ?_, fun hok => ?_⟩
  · rw [exec_eq_run, State.run_answer rfl, State.respond]
  · rw [exec_eq_run, State.run_readFails hrule hfail]
  · rw [exec_eq_run, State.run_reads hrule hok, State.bytesAt_one, byteAt_zero, State.complete_answer]

end Sys2Proof.Machine
end

section
/-! PROOFS. The output data rate's encoding and decoding (`42_output_data_rate.md` R130 to R141): the three fields as
numbers, the table of fast rates as the rule that the rate and the mode's code make 11, the fields of an encoded rate, and
what an OR with it leaves. -/

namespace Sys2Proof.Machine

/-! ### One field among others (R31) -/

/-- An inserted field has no bit under a mask disjoint from its own. -/
theorem fieldInsert_and_of_disjoint (v : Byte) {m k : Byte} (s : BitVec 3) (h : m &&& k = 0) :
    fieldInsert v m s &&& k = 0 := by
  have hk : k = ~~~m &&& k := by
    calc k = (m ||| ~~~m) &&& k := by rw [BitVec.or_not_self, BitVec.allOnes_and]
      _ = 0 ||| ~~~m &&& k := by rw [BitVec.and_or_distrib_right, h]
      _ = ~~~m &&& k := BitVec.zero_or
  rw [hk, ← BitVec.and_assoc, fieldInsert_and_not_mask]
  exact BitVec.zero_and

theorem fieldExtract_eq_zero {b m : Byte} (s : BitVec 3) (h : b &&& m = 0) : fieldExtract b m s = 0 := by
  rw [fieldExtract, h]
  exact BitVec.zero_ushiftRight

/-- A mask of `k` ones above the shift extracts a byte's `k` bits from there. -/
theorem fieldExtract_toNat_of_ones (b : Byte) {m : Byte} {s : BitVec 3} {k : Nat}
    (h : m.toNat / 2 ^ s.toNat = 2 ^ k - 1) : (fieldExtract b m s).toNat = b.toNat / 2 ^ s.toNat % 2 ^ k := by
  rw [fieldExtract_toNat, Nat.and_div_two_pow, h, Nat.and_two_pow_sub_one_eq_mod]

theorem dataRate_code_toNat (b : Byte) : (fieldExtract b drMask drShift).toNat = b.toNat / 4 % 8 :=
  fieldExtract_toNat_of_ones b (k := 3) rfl

theorem fastFlag_toNat (b : Byte) : (fieldExtract b fastMask fastShift).toNat = b.toNat / 2 % 2 :=
  fieldExtract_toNat_of_ones b (k := 1) rfl

theorem performanceMode_code_toNat (b : Byte) : (fieldExtract b pmMask pmShift).toNat = b.toNat / 32 % 4 :=
  fieldExtract_toNat_of_ones b (k := 2) rfl

/-- The flag is bit 1 of the byte. -/
theorem fastFlag_eq_zero_iff (b : Byte) : fieldExtract b fastMask fastShift = 0 ↔ b.getLsbD 1 = false := by
  rw [← BitVec.toNat_inj, fastFlag_toNat, BitVec.getLsbD, Nat.testBit_eq_decide_div_mod_eq, decide_eq_false_iff_not]
  exact Nat.mod_two_ne_one.symm

theorem fastFlag_or_one (b : Byte) : fieldExtract b fastMask fastShift ||| 1 = 1 := by
  have hle : (fieldExtract b fastMask fastShift).toNat ≤ 1 := by
    rw [fastFlag_toNat]
    omega
  generalize fieldExtract b fastMask fastShift = f at hle
  obtain rfl | rfl : f = 0 ∨ f = 1 := by bv_omega
  all_goals rfl

/-! ### The table of fast rates (R132) -/

theorem PerformanceMode.code_toNat_le (m : PerformanceMode) : m.code.toNat ≤ 3 := by cases m <;> decide

/-- The table's forward direction: the rate and the mode's code make 11. -/
theorem modeOfRate_eq_some_iff {rate : Nat} {m : PerformanceMode} :
    modeOfRate rate = some m ↔ rate = 11 - m.code.toNat := by
  have hrows : ∀ row ∈ fastRates, row.2 = 11 - row.1.code.toNat := by decide
  refine ⟨fun h => ?_, fun h => ?_⟩
  · obtain ⟨row, hrow, rfl⟩ := Option.map_eq_some_iff.1 h
    have hrate : row.2 = rate := beq_iff_eq.1 (List.find?_some hrow :)
    rw [← hrate, hrows row (List.mem_of_find?_eq_some hrow)]
  · subst h
    cases m <;> rfl

/-- The table's other direction, for every 2-bit code. -/
theorem rateOfMode_eq_some {c : Byte} (h : c.toNat ≤ 3) : rateOfMode c = some (11 - c.toNat) := by
  have hall : ∀ c : Byte, c.toNat ≤ 3 → rateOfMode c = some (11 - c.toNat) := by decide
  exact hall c h

/-- Each of the rates 8 to 11 is a row's. -/
theorem exists_modeOfRate {rate : Nat} (h8 : 8 ≤ rate) (h11 : rate ≤ 11) : ∃ m, modeOfRate rate = some m := by
  interval_cases rate <;> exact ⟨_, rfl⟩

theorem le_of_modeOfRate {rate : Nat} {m : PerformanceMode} (h : modeOfRate rate = some m) : 8 ≤ rate := by
  have := m.code_toNat_le
  have := modeOfRate_eq_some_iff.1 h
  omega

/-! ### Decoding (R135) -/

/-- The decoded rate in terms of the three fields. The implausible case does not occur: the mode's code has two bits. -/
theorem odrDecode_eq_fields (b : Byte) : odrDecode b =
    some (if fieldExtract b fastMask fastShift = 0 then (fieldExtract b drMask drShift).toNat
      else 11 - (fieldExtract b pmMask pmShift).toNat) := by
  have hcode : (fieldExtract b pmMask pmShift).toNat ≤ 3 := by
    rw [performanceMode_code_toNat]
    omega
  rw [odrDecode, rateOfMode_eq_some hcode, apply_ite some]

/-- The decoded rate in terms of the byte's bits (R135, R136). -/
theorem odrDecode_eq (b : Byte) :
    odrDecode b = some (if b.getLsbD 1 then 11 - b.toNat / 32 % 4 else b.toNat / 4 % 8) := by
  rw [odrDecode_eq_fields, dataRate_code_toNat, performanceMode_code_toNat]
  cases h : b.getLsbD 1 with
  | false => rw [if_pos ((fastFlag_eq_zero_iff b).2 h), if_neg Bool.false_ne_true]
  | true => rw [if_neg (by rw [fastFlag_eq_zero_iff, h]; decide), if_pos rfl]

/-- A byte decodes to a normal rate when its flag is clear and its rate field is the rate: the fast rates are above 7. -/
theorem odrDecode_eq_normal_iff {b : Byte} {rate : Nat} (h : rate ≤ 7) : odrDecode b = some rate ↔
    fieldExtract b fastMask fastShift = 0 ∧ fieldExtract b drMask drShift = BitVec.ofNat 8 rate := by
  have hmode := performanceMode_code_toNat b
  rw [odrDecode_eq_fields, Option.some_inj, ← BitVec.toNat_inj (x := fieldExtract b drMask drShift),
    BitVec.toNat_ofNat, Nat.mod_eq_of_lt (by omega)]
  split
  next hflag => simp [hflag]
  next hflag => exact ⟨fun he => by omega, fun he => absurd he.1 hflag⟩

/-- A byte whose flag is set decodes to the rate of a mode when its mode field is the mode. -/
theorem odrDecode_eq_fast_iff {b : Byte} {rate : Nat} {m : PerformanceMode} (hm : modeOfRate rate = some m)
    (hflag : fieldExtract b fastMask fastShift = 1) :
    odrDecode b = some rate ↔ fieldExtract b pmMask pmShift = m.code := by
  have hmode := performanceMode_code_toNat b
  have hcode := m.code_toNat_le
  rw [odrDecode_eq_fields, hflag, if_neg (by decide), modeOfRate_eq_some_iff.1 hm, Option.some_inj, ← BitVec.toNat_inj]
  omega

/-! ### Encoding (R133) -/

/-- The encoding of a normal rate: the rate in its field. -/
def normalEncoding (rate : Nat) : Byte := fieldInsert (BitVec.ofNat 8 rate) drMask drShift

/-- The encoding of a mode's fast rate: the flag, and the mode's code in its field. -/
def fastEncoding (m : PerformanceMode) : Byte := fieldInsert 1 fastMask fastShift ||| fieldInsert m.code pmMask pmShift

theorem odrEncode_normal {rate : Nat} (h : rate ≤ 7) : odrEncode rate = some (normalEncoding rate) :=
  if_pos (decide_eq_true h)

theorem odrEncode_fast {rate : Nat} {m : PerformanceMode} (h : modeOfRate rate = some m) :
    odrEncode rate = some (fastEncoding m) := by
  have hfast := le_of_modeOfRate h
  have hnormal : ¬ normalRate rate = true := by
    rw [normalRate, decide_eq_true_iff]
    omega
  rw [odrEncode, if_neg hnormal, h, fastEncoding]

/-- A defined rate is normal or fast, and so is its encoding (R131). -/
theorem odrEncode_cases {rate : Nat} {e : Byte} (h : odrEncode rate = some e) :
    (rate ≤ 7 ∧ e = normalEncoding rate) ∨ ∃ m, modeOfRate rate = some m ∧ e = fastEncoding m := by
  by_cases h7 : rate ≤ 7
  · exact .inl ⟨h7, Option.some.inj (h.symm.trans (odrEncode_normal h7))⟩
  · obtain ⟨m, hm⟩ := exists_modeOfRate (by omega) (le_of_odrEncode h)
    exact .inr ⟨m, hm, Option.some.inj (h.symm.trans (odrEncode_fast hm))⟩

/-- Every rate up to 11 has an encoding. -/
theorem exists_odrEncode {rate : Nat} (h : rate ≤ 11) : ∃ e, odrEncode rate = some e := by
  by_cases h7 : rate ≤ 7
  · exact ⟨_, odrEncode_normal h7⟩
  · obtain ⟨m, hm⟩ := exists_modeOfRate (by omega) h
    exact ⟨_, odrEncode_fast hm⟩

theorem normalEncoding_fields {rate : Nat} (h : rate ≤ 7) :
    fieldExtract (normalEncoding rate) drMask drShift = BitVec.ofNat 8 rate ∧
    fieldExtract (normalEncoding rate) fastMask fastShift = 0 ∧
    fieldExtract (normalEncoding rate) pmMask pmShift = 0 := by
  have hfits : (BitVec.ofNat 8 rate).toNat ≤ 7 := by
    rw [BitVec.toNat_ofNat]
    omega
  exact ⟨(codecLaws.2 (drMask, drShift, 7) (by simp)).1 _ hfits,
    fieldExtract_eq_zero _ (fieldInsert_and_of_disjoint _ _ (by decide)),
    fieldExtract_eq_zero _ (fieldInsert_and_of_disjoint _ _ (by decide))⟩

theorem fastEncoding_fields (m : PerformanceMode) :
    fieldExtract (fastEncoding m) fastMask fastShift = 1 ∧
    fieldExtract (fastEncoding m) pmMask pmShift = m.code ∧
    fieldExtract (fastEncoding m) drMask drShift = 0 := by
  have hflag : fieldExtract (fieldInsert 1 fastMask fastShift) fastMask fastShift = 1 := by decide
  have hmode : fieldExtract (fieldInsert m.code pmMask pmShift) pmMask pmShift = m.code :=
    (codecLaws.2 (pmMask, pmShift, 3) (by simp)).1 _ m.code_toNat_le
  have hother {v k n : Byte} {s t : BitVec 3} (h : k &&& n = 0) : fieldExtract (fieldInsert v k s) n t = 0 :=
    fieldExtract_eq_zero t (fieldInsert_and_of_disjoint v s h)
  refine ⟨?_, ?_, ?_⟩ <;> rw [fastEncoding, fieldExtract_or]
  · rw [hflag, hother (by decide)]
    rfl
  · rw [hmode, hother (by decide)]
    exact BitVec.zero_or
  · rw [hother (by decide), hother (by decide)]
    rfl

/-- An encoding holds nothing in bits 7 and 0 (R133, R142). -/
theorem odrEncode_and_outer_bits {rate : Nat} {e : Byte} (h : odrEncode rate = some e) : e &&& 0x81 = 0 := by
  rcases odrEncode_cases h with ⟨-, rfl⟩ | ⟨m, -, rfl⟩
  · exact fieldInsert_and_of_disjoint _ _ (by decide)
  · rw [fastEncoding, BitVec.and_or_distrib_right, fieldInsert_and_of_disjoint _ _ (by decide),
      fieldInsert_and_of_disjoint _ _ (by decide)]
    rfl

/-! ### The statements about the two functions -/

/-- Settles O19: extracting distributes over the OR, and the encoding's own fields are known. -/
theorem orLeavesTheOldFieldsMerged : Obligations.OrLeavesTheOldFieldsMerged := by
  intro old e rate he
  refine ⟨fun h7 => ?_, fun m hm => ?_⟩
  · obtain rfl := Option.some.inj ((odrEncode_normal h7).symm.trans he)
    obtain ⟨hrate, hflag, hmode⟩ := normalEncoding_fields h7
    have hflags : fieldExtract (old ||| normalEncoding rate) fastMask fastShift =
        fieldExtract old fastMask fastShift := by
      rw [fieldExtract_or, hflag]
      exact BitVec.or_zero
    rw [odrDecode_eq_normal_iff h7, hflags, fieldExtract_or, fieldExtract_or, hrate, hmode]
    exact ⟨rfl, rfl, BitVec.or_zero, Iff.rfl⟩
  · obtain rfl := Option.some.inj ((odrEncode_fast hm).symm.trans he)
    obtain ⟨hflag, hmode, hrate⟩ := fastEncoding_fields m
    have hset : fieldExtract (old ||| fastEncoding m) fastMask fastShift = 1 := by
      rw [fieldExtract_or, hflag, fastFlag_or_one]
    rw [odrDecode_eq_fast_iff hm hset, hset, fieldExtract_or, fieldExtract_or, hmode, hrate]
    exact ⟨rfl, rfl, BitVec.or_zero, Iff.rfl⟩

/-- Where an old byte's bits 6 to 1 are clear, so are its three fields, and the OR leaves the encoding's. -/
theorem odrDecode_or_of_clear {old e : Byte} {rate : Nat} (hold : old &&& 0x7E = 0) (he : odrEncode rate = some e) :
    odrDecode (old ||| e) = some rate := by
  obtain ⟨hnormal, hfast⟩ := orLeavesTheOldFieldsMerged old e rate he
  have hfield {m : Byte} (s : BitVec 3) (h : 0x7E &&& m = m) : fieldExtract old m s = 0 :=
    fieldExtract_eq_zero s (by rw [← h, ← BitVec.and_assoc, hold]; exact BitVec.zero_and)
  rcases odrEncode_cases he with ⟨h7, -⟩ | ⟨m, hm, -⟩
  · obtain ⟨-, -, -, hdecode⟩ := hnormal h7
    rw [hdecode, hfield drShift (by decide)]
    exact ⟨hfield fastShift (by decide), BitVec.zero_or⟩
  · obtain ⟨-, -, -, hdecode⟩ := hfast m hm
    rw [hdecode, hfield pmShift (by decide)]
    exact BitVec.zero_or

/-- Settles O17: the raw encoding is the old byte 0 with the encoding OR-ed in. -/
theorem rateRoundTrip : Obligations.RateRoundTrip := by
  intro rate h
  obtain ⟨e, he⟩ := exists_odrEncode h
  have hraw : odrDecode (0#8 ||| e) = some rate := odrDecode_or_of_clear (by decide) he
  rw [BitVec.zero_or] at hraw
  exact ⟨e, he, hraw, fun old hold => odrDecode_or_of_clear hold he⟩

/-- The table's two directions agree (R132). -/
theorem rateOfMode_of_modeOfRate {rate : Nat} {m : PerformanceMode} (h : modeOfRate rate = some m) :
    rateOfMode m.code = some rate := by
  rw [rateOfMode_eq_some m.code_toNat_le, modeOfRate_eq_some_iff.1 h]

/-- Settles O18: in both directions the rate and the mode's code make 11. -/
theorem fastRateTableIsSymmetric : Obligations.FastRateTableIsSymmetric := by
  refine ⟨fun m => ?_, fun r h8 h11 => ?_⟩
  · have hm : modeOfRate (11 - m.code.toNat) = some m := modeOfRate_eq_some_iff.2 rfl
    obtain ⟨-, hmode, -⟩ := fastEncoding_fields m
    exact ⟨_, _, rateOfMode_of_modeOfRate hm, hm, odrEncode_fast hm, hmode⟩
  · obtain ⟨m, hm⟩ := exists_modeOfRate h8 h11
    exact ⟨m, hm, rateOfMode_of_modeOfRate hm⟩

/-! ### ODRENC and ODRDEC (R134, R136) -/

theorem exec_odrenc_defined {rate : Nat} {e : Byte} (h : odrEncode rate = some e) (s : State) :
    exec (.odrenc rate) s = .next (s.respond (.ok (some (zext16 e)))) := by
  rw [exec_eq_run, State.run_answer (by rw [ruleOf, ruleOdrenc, h])]

theorem exec_odrenc_undefined {rate : Nat} (h : odrEncode rate = none) (s : State) :
    exec (.odrenc rate) s = .next (s.respond (.deviceError .undefinedRate)) := by
  rw [exec_eq_run, State.run_answer (by rw [ruleOf, ruleOdrenc, h])]

theorem zext16_normalEncoding {rate : Nat} (h : rate ≤ 7) :
    zext16 (normalEncoding rate) = BitVec.ofNat 16 (rate * 4) := by
  interval_cases rate <;> rfl

theorem zext16_fastEncoding (m : PerformanceMode) :
    zext16 (fastEncoding m) = BitVec.ofNat 16 (2 + m.code.toNat * 32) := by
  cases m <;> rfl

/-- Settles O15: the encodings as numbers, in the three ranges of the rate. -/
theorem odrencResult : Obligations.OdrencResult := by
  intro s rate
  refine ⟨fun h7 => ?_, fun h8 h11 => ?_, fun h12 => ?_⟩
  · rw [exec_odrenc_defined (odrEncode_normal h7), zext16_normalEncoding h7, State.respond]
  · obtain ⟨m, hm⟩ := exists_modeOfRate h8 h11
    have hcode : m.code.toNat = 11 - rate := by
      have := m.code_toNat_le
      have := modeOfRate_eq_some_iff.1 hm
      omega
    rw [exec_odrenc_defined (odrEncode_fast hm), zext16_fastEncoding, hcode, State.respond]
  · rw [exec_odrenc_undefined (odrEncode_undefined h12), State.respond]

/-- The response to a decoded byte is Ok with its rate: the implausible case does not occur (R136, R138). -/
theorem decodedResponse_odrDecode (b : Byte) : decodedResponse (odrDecode b) =
    .ok (some (BitVec.ofNat 16 (if b.getLsbD 1 then 11 - b.toNat / 32 % 4 else b.toNat / 4 % 8))) := by
  rw [odrDecode_eq, decodedResponse]

/-- Settles O16: ODRDEC's rule answers at once with the decoded rate. -/
theorem odrdecResult : Obligations.OdrdecResult := by
  intro s byte
  rw [exec_eq_run, State.run_answer rfl, decodedResponse_odrDecode, State.respond]

end Sys2Proof.Machine
end

section
/-! PROOFS. SETODR and GETODR (`42_output_data_rate.md` R137, R138): their outcomes, that an Ok SETODR clears no bit
(R142), and the frame of the two operations that write. -/

namespace Sys2Proof.Machine

/-! ### The end of an operation that writes (R172) -/

/-- A write's effect on the device and the record, with the device's registers as one choice. -/
theorem State.memWrite_eq_setDev (s : State) (who : Master) (a b : Byte) (t : Transport) :
    (s.memWrite who a b t).1 =
      (s.setDev (if t.ok || t.landed then s.dev.write a b else s.dev)).record who (.write a [b] t.ok) := by
  rw [State.memWrite]
  split <;> rfl

theorem State.complete_writeSucceeds {s : State} (a b : Byte) (h : s.nextTransport.ok = true) :
    s.complete (.write a b) =
      ((s.othersAct.setDev (s.othersAct.dev.write a b)).record .self (.write a [b] true)).respond (.ok none) := by
  rw [State.complete_write, State.memWrite_eq_setDev, h, Bool.true_or, if_pos rfl, writeResponse, if_pos rfl]

theorem State.complete_writeFails {s : State} (a b : Byte) (h : s.nextTransport.ok = false) :
    s.complete (.write a b) =
      ((s.othersAct.setDev (if s.nextTransport.landed then s.othersAct.dev.write a b else s.othersAct.dev)).record
        .self (.write a [b] false)).respond (.busError .writeFailed) := by
  rw [State.complete_write, State.memWrite_eq_setDev, h, Bool.false_or, writeResponse, if_neg Bool.false_ne_true]

/-! ### SETODR (R137) -/

theorem setodr_afterRead_undefined {rate : Nat} (h : odrEncode rate = none) (p : Params) (r : List Byte) :
    (ruleOf (.setodr rate) p).afterRead r = .answer (.deviceError .undefinedRate) := by
  simp only [ruleOf, ruleSetodr, Rule.afterRead, h]

theorem setodr_afterRead_defined {rate : Nat} {e : Byte} (h : odrEncode rate = some e) (p : Params) (r : List Byte) :
    (ruleOf (.setodr rate) p).afterRead r = .write p.ctrl1 (byteAt r 0 ||| e) := by
  simp only [ruleOf, ruleSetodr, Rule.afterRead, h]

theorem exec_setodr_readFails {s : State} (rate : Nat) (h : s.nextTransport.ok = false) :
    exec (.setodr rate) s =
      .next ((s.othersAct.record .self (.read s.params.ctrl1 1 none)).respond (.busError .readFailed)) := by
  rw [exec_eq_run, State.run_readFails rfl h]

theorem exec_setodr_reads {s : State} (rate : Nat) (h : s.nextTransport.ok = true) :
    exec (.setodr rate) s =
      .next ((s.othersAct.record .self (.read s.params.ctrl1 1 (some [s.othersAct.dev.read s.params.ctrl1]))).complete
        ((ruleOf (.setodr rate) s.params).afterRead [s.othersAct.dev.read s.params.ctrl1])) := by
  rw [exec_eq_run, State.run_reads rfl h, State.bytesAt_one]
  rfl

/-- Settles O20: the read's draw, the rate, and the write's draw decide, in this order. -/
theorem setodrOutcomes : Obligations.SetodrOutcomes := by
  intro s rate e a old m before
  refine ⟨exec_setodr_readFails rate, fun hread h12 => ?_, fun hread he hwrite => ?_, fun hread he hwrite => ?_⟩ <;>
    rw [exec_setodr_reads rate hread]
  · rw [setodr_afterRead_undefined (odrEncode_undefined h12), State.complete_answer]
  · rw [setodr_afterRead_defined he, byteAt_zero, State.complete_writeFails a (old ||| e) hwrite]
  · rw [setodr_afterRead_defined he, byteAt_zero, State.complete_writeSucceeds a (old ||| e) hwrite]

@[simp] theorem State.setDev_ownCalls (s : State) (m : Memory) : (s.setDev m).ownCalls = s.ownCalls := rfl

/-- A SETODR that ends Ok was given a defined rate, read a byte `old` and wrote `old` OR the encoding. -/
theorem exec_setodr_ok_inv {s t : State} {rate : Nat} (ht : exec (.setodr rate) s = .next t)
    (hlast : t.lastResponse = some (.ok none)) :
    ∃ e old m, odrEncode rate = some e ∧ s.othersAct.dev.read s.params.ctrl1 = old ∧
      s.othersAct.record .self (.read s.params.ctrl1 1 (some [old])) = m ∧
      t = ((m.othersAct.setDev (m.othersAct.dev.write s.params.ctrl1 (old ||| e))).record
        .self (.write s.params.ctrl1 [old ||| e] true)).respond (.ok none) := by
  have hne {u : State} {r : Response} (hu : exec (.setodr rate) s = .next (u.respond r)) : r = .ok none := by
    obtain rfl := Host.Outcome.next.inj (hu.symm.trans ht)
    exact Option.some.inj ((u.respond_lastResponse r).symm.trans hlast)
  obtain ⟨hreadFails, hundefined, -, -⟩ := setodrOutcomes s rate 0
  cases hread : s.nextTransport.ok with
  | false => cases hne (hreadFails hread)
  | true =>
    by_cases h11 : rate ≤ 11
    · obtain ⟨e, he⟩ := exists_odrEncode h11
      obtain ⟨-, -, hwriteFails, hok⟩ := setodrOutcomes s rate e
      refine ⟨e, _, _, he, rfl, rfl, ?_⟩
      cases hwrite : (s.othersAct.record .self
          (.read s.params.ctrl1 1 (some [s.othersAct.dev.read s.params.ctrl1]))).nextTransport.ok with
      | false => cases hne (hwriteFails hread he hwrite)
      | true => exact Host.Outcome.next.inj (ht.symm.trans (hok hread he hwrite))
    · cases hne (hundefined hread (by omega))

/-- Settles O21: the byte written is the one read OR an encoding, which has no bit in 7 and 0. -/
theorem setodrNeverClearsABit : Obligations.SetodrNeverClearsABit := by
  intro s t rate ht hlast
  obtain ⟨e, old, m, he, -, rfl, rfl⟩ := exec_setodr_ok_inv ht hlast
  refine ⟨old, old ||| e, by simp, Memory.read_write_same .., ?_, ?_⟩
  · rw [BitVec.and_or_distrib_right, BitVec.and_self]
    ext i
    simp
  · rw [BitVec.and_or_distrib_right, odrEncode_and_outer_bits he]
    exact BitVec.or_zero

/-! ### GETODR (R138) -/

/-- Settles O22: without a destination GETODR answers at once; with one, the draw decides how its one read ends. -/
theorem getodrOutcomes : Obligations.GetodrOutcomes := by
  intro s a b
  have hrule : ruleOf (.getodr true) s.params =
      .read a 1 fun r => .answer (decodedResponse (odrDecode (byteAt r 0))) := rfl
  refine ⟨?_, fun hfail => ?_, fun hok => ?_⟩
  · rw [exec_eq_run, State.run_answer rfl, State.respond]
  · rw [exec_eq_run, State.run_readFails hrule hfail]
  · rw [exec_eq_run, State.run_reads hrule hok, State.bytesAt_one, byteAt_zero, State.complete_answer,
      decodedResponse_odrDecode]

/-! ### The frame of the operations that write -/

/-- `t` differs from `s` at most in the device's register `a`, the record, the responses and the draws. -/
structure SameButRegister (a : Byte) (s t : State) : Prop where
  dev : ∀ c, c ≠ a → t.dev.read c = s.dev.read c
  params : t.params = s.params
  requests : t.requests = s.requests
  others : t.others = s.others

/-- What an operation does after its read writes to no register but `a`. -/
def AfterRead.writesOnly (a : Byte) (x : AfterRead) : Prop := ∀ c, c ≠ a → x.avoids c

theorem State.complete_sameButRegister {s : State} {a : Byte} (hnone : s.nextDraw.before = []) {x : AfterRead}
    (hx : x.writesOnly a) : SameButRegister a s (s.complete x) := by
  cases x with
  | answer r => exact ⟨fun _ _ => rfl, rfl, rfl, rfl⟩
  | write d b =>
    rw [State.complete_write, State.othersAct_of_none hnone]
    have hdev (c : Byte) (hc : c ≠ a) := s.takeDraw.memWrite_read_other .self b s.nextTransport (hx c hc)
    exact ⟨hdev, by simp, by simp, by simp⟩

/-- Where nobody else acts before its bus calls, an operation leaves all but its own register as it was. -/
theorem State.run_sameButRegister {s : State} {rule : Params → Rule} {a : Byte} (h1 : s.nextDraw.before = [])
    (h2 : s.takeDraw.nextDraw.before = []) (hx : ∀ r, ((rule s.params).afterRead r).writesOnly a) :
    SameButRegister a s (s.run rule) := by
  rcases s.run_cases rule with ⟨r, -, he⟩ | ⟨d, n, next, hr, ⟨-, he⟩ | ⟨-, he⟩⟩
  · rw [he]
    exact ⟨fun _ _ => rfl, rfl, rfl, rfl⟩
  · rw [he, State.othersAct_of_none h1]
    exact ⟨fun _ _ => rfl, rfl, rfl, rfl⟩
  · rw [hr] at hx
    rw [he, State.othersAct_of_none h1]
    obtain ⟨hd, hp, hq, ho⟩ := State.complete_sameButRegister (x := next (s.takeDraw.bytesAt d n))
      (s := s.takeDraw.record .self (.read d n (some (s.takeDraw.bytesAt d n)))) h2 (hx _)
    exact ⟨hd, hp, hq, ho⟩

/-- Settles O33: the one write of SETODR is to control-1 and that of INTPIN to interrupt-config. -/
theorem writingOperationsFrame : Obligations.WritingOperationsFrame := by
  intro s t n h1 h2
  refine ⟨fun ht => ?_, fun ht => ?_⟩ <;> obtain rfl := Host.Outcome.next.inj ((exec_eq_run _ s).symm.trans ht)
  · obtain ⟨hd, hp, hq, ho⟩ := State.run_sameButRegister (rule := ruleOf (.setodr n)) h1 h2
      fun r c hc => ruleOf_afterRead_avoids (i := .setodr n) (.inr hc) (.inl fun _ => nofun) r
    exact ⟨hd, hp, hq, ho⟩
  · obtain ⟨hd, hp, hq, ho⟩ := State.run_sameButRegister (rule := ruleOf (.intpin n)) h1 h2
      fun r c hc => ruleOf_afterRead_avoids (i := .intpin n) (.inl fun _ => nofun) (.inr hc) r
    exact ⟨hd, hp, hq, ho⟩

end Sys2Proof.Machine
end

section
/-! PROOFS. INTPIN (`43_interrupt_pin.md` R150 to R152): its outcomes, that an Ok INTPIN writes its operand into bit 0
and nothing else, and that enabling and then disabling leaves the other bits alone. -/

namespace Sys2Proof.Machine

/-! ### The byte INTPIN writes (R150, R151) -/

theorem intPinByte_one (old : Byte) : intPinByte 1 old = old ||| 0x01 := rfl

theorem intPinByte_zero (old : Byte) : intPinByte 0 old = old &&& 0xFE := rfl

theorem intPinByte_and_other_bits (enable : Nat) (old : Byte) : intPinByte enable old &&& 0xFE = old &&& 0xFE := by
  unfold intPinByte
  split
  · rw [BitVec.and_or_distrib_right, show ienMask &&& 0xFE = 0 from rfl]
    exact BitVec.or_zero
  · rw [show ~~~ienMask = 0xFE from rfl, BitVec.and_assoc, BitVec.and_self]

/-- The enable field is bit 0 where it stands (R31), so extracting it is masking it. -/
theorem fieldExtract_ien (b : Byte) : fieldExtract b ienMask ienShift = b &&& ienMask := BitVec.ushiftRight_zero _

theorem fieldExtract_intPinByte {enable : Nat} (h : enable ≤ 1) (old : Byte) :
    fieldExtract (intPinByte enable old) ienMask ienShift = BitVec.ofNat 8 enable := by
  rw [fieldExtract_ien]
  obtain rfl | rfl := Nat.le_one_iff_eq_zero_or_eq_one.1 h
  · rw [intPinByte_zero, BitVec.and_assoc, show 0xFE &&& ienMask = 0 from rfl]
    exact BitVec.and_zero
  · have habsorb : (old ||| ienMask) &&& ienMask = ienMask := by
      ext i
      simp +contextual
    exact habsorb

/-! ### The outcomes (R150) -/

/-- INTPIN with an operand that names a state of the pin is a read and a write of interrupt-config. -/
theorem ruleOf_intpin_valid {enable : Nat} (h : enable ≤ 1) (p : Params) :
    ruleOf (.intpin enable) p = .read p.intCfg 1 fun r => .write p.intCfg (intPinByte enable (byteAt r 0)) :=
  if_neg (by omega)

theorem State.run_intpin_reads {s : State} {enable : Nat} (h : enable ≤ 1) (hread : s.nextTransport.ok = true) :
    s.run (ruleOf (.intpin enable)) =
      (s.othersAct.record .self (.read s.params.intCfg 1 (some [s.othersAct.dev.read s.params.intCfg]))).complete
        (.write s.params.intCfg (intPinByte enable (s.othersAct.dev.read s.params.intCfg))) := by
  rw [State.run_reads (ruleOf_intpin_valid h s.params) hread, State.bytesAt_one, byteAt_zero]

/-- Settles O25: the operand, the read's draw and the write's draw decide, in this order. -/
theorem intpinOutcomes : Obligations.IntpinOutcomes := by
  intro s enable a old new m before
  refine ⟨fun h2 => ?_, fun h1 hread => ?_, fun h1 hread hwrite => ?_, fun h1 hread hwrite => ?_⟩ <;> rw [exec_eq_run]
  · rw [State.run_answer (ruleOf_intpin_invalid h2 s.params), State.respond]
  · rw [State.run_readFails (ruleOf_intpin_valid h1 s.params) hread]
  · rw [State.run_intpin_reads h1 hread]
    exact congrArg _ (State.complete_writeFails a new hwrite)
  · rw [State.run_intpin_reads h1 hread]
    exact congrArg _ (State.complete_writeSucceeds a new hwrite)

/-! ### An INTPIN that ends Ok (R151, R152) -/

/-- An operation that ends Ok with its write has had a successful one. -/
theorem State.complete_write_ok_inv {s : State} {a b : Byte}
    (h : (s.complete (.write a b)).lastResponse = some (.ok none)) :
    s.complete (.write a b) =
      ((s.othersAct.setDev (s.othersAct.dev.write a b)).record .self (.write a [b] true)).respond (.ok none) := by
  cases hwrite : s.nextTransport.ok with
  | false =>
    rw [State.complete_writeFails a b hwrite, State.respond_lastResponse] at h
    cases h
  | true => exact State.complete_writeSucceeds a b hwrite

/-- An INTPIN that ends Ok had an operand of 0 or 1, read a byte `old` and wrote it with bit 0 made the operand. -/
theorem exec_intpin_ok_inv {s t : State} {enable : Nat} (ht : exec (.intpin enable) s = .next t)
    (hlast : t.lastResponse = some (.ok none)) :
    enable ≤ 1 ∧ ∃ old m, s.othersAct.dev.read s.params.intCfg = old ∧
      s.othersAct.record .self (.read s.params.intCfg 1 (some [old])) = m ∧
      t = ((m.othersAct.setDev (m.othersAct.dev.write s.params.intCfg (intPinByte enable old))).record
        .self (.write s.params.intCfg [intPinByte enable old] true)).respond (.ok none) := by
  obtain rfl := Host.Outcome.next.inj ((exec_eq_run _ s).symm.trans ht)
  by_cases h1 : enable ≤ 1
  · cases hread : s.nextTransport.ok with
    | false =>
      rw [State.run_readFails (ruleOf_intpin_valid h1 s.params) hread, State.respond_lastResponse] at hlast
      cases hlast
    | true =>
      rw [State.run_intpin_reads h1 hread] at hlast ⊢
      exact ⟨h1, _, _, rfl, rfl, State.complete_write_ok_inv hlast⟩
  · rw [State.run_answer (ruleOf_intpin_invalid (by omega) s.params), State.respond_lastResponse] at hlast
    cases hlast

/-- Settles O26: the byte written differs from the one read in bit 0 alone, which is the operand. -/
theorem intpinWritesExactlyItsBit : Obligations.IntpinWritesExactlyItsBit := by
  intro s t enable ht hlast
  obtain ⟨h1, old, m, -, rfl, rfl⟩ := exec_intpin_ok_inv ht hlast
  exact ⟨old, intPinByte enable old, by simp, Memory.read_write_same .., intPinByte_and_other_bits enable old,
    fieldExtract_intPinByte h1 old, h1⟩

/-- In a closed system with no rivals, what INTPIN reads is what the register held before it, and an Ok one leaves
the system as closed as it was. -/
theorem exec_intpin_ok_of_alone {s t : State} {enable : Nat} (hp : s.params.ok) (halone : s.alone)
    (ht : exec (.intpin enable) s = .next t) (hlast : t.lastResponse = some (.ok none)) :
    t.dev.read s.params.intCfg = intPinByte enable (s.dev.read s.params.intCfg) ∧ t.params = s.params ∧ t.alone := by
  have hg : s.Guards s.params.intCfg := .of_alone hp halone (by simp [Params.controlAddrs])
  obtain ⟨-, old, m, hold, rfl, rfl⟩ := exec_intpin_ok_inv ht hlast
  obtain rfl : s.dev.read s.params.intCfg = old := hg.othersAct_read.symm.trans hold
  have hmid : (s.othersAct.record .self (.read s.params.intCfg 1 (some [s.dev.read s.params.intCfg]))).alone :=
    State.alone_othersAct halone
  exact ⟨Memory.read_write_same .., by simp, State.alone_othersAct hmid⟩

/-- Settles O27: INTPIN 0 reads the byte INTPIN 1 left, whose bits 7:1 are the first byte's. -/
theorem intpinOnThenOff : Obligations.IntpinOnThenOff := by
  intro s t u ⟨hp, _⟩ halone ht htlast hu hulast
  obtain ⟨hon, hparams, htalone⟩ := exec_intpin_ok_of_alone hp halone ht htlast
  obtain ⟨hoff, -, -⟩ := exec_intpin_ok_of_alone (hparams ▸ hp) htalone hu hulast
  rw [hparams, hon, intPinByte_zero, intPinByte_and_other_bits] at hoff
  exact ⟨hon.trans (intPinByte_one _), hoff⟩

end Sys2Proof.Machine
end

section
/-! PROOFS. The sample reassembler and the axis reader (`44_axis_reader.md`): the pattern of two bytes as a number, its
sign and its two bytes back (R161), and the outcomes of ASM16 and RDAXIS (R162, R163). -/

namespace Sys2Proof.Machine

/-! ### The reassembled pattern (R161) -/

theorem asm16_toNat (lo hi : Byte) : (asm16 lo hi).toNat = hi.toNat * 256 + lo.toNat :=
  calc (asm16 lo hi).toNat
    _ = hi.toNat <<< 8 ||| lo.toNat := by rw [asm16_eq_append, BitVec.toNat_append]
    _ = hi.toNat <<< 8 + lo.toNat := (Nat.shiftLeft_add_eq_or_of_lt lo.isLt _).symm
    _ = hi.toNat * 256 + lo.toNat := by rw [Nat.shiftLeft_eq]

theorem asm16_eq_ofNat (lo hi : Byte) : asm16 lo hi = BitVec.ofNat 16 (hi.toNat * 256 + lo.toNat) := by
  rw [← asm16_toNat, BitVec.ofNat_toNat, BitVec.setWidth_eq]

/-- The sign is that of two's complement: bit 15 decides (R15). -/
theorem signed16_eq_sub (v : Half) : signed16 v = (v.toNat : Int) - if v.getLsbD 15 then 65536 else 0 := by
  have hsign : v.getLsbD 15 = decide (32768 ≤ v.toNat) := v.msb_eq_getLsbD_last.symm.trans v.msb_eq_decide
  rw [signed16, hsign]
  by_cases h : v.toNat < 32768
  · simp [h, Nat.not_le_of_lt h]
  · simp [h, Nat.le_of_not_lt h]

/-- The pattern's bit 15 is bit 7 of the high byte. -/
theorem asm16_getLsbD_15 (lo hi : Byte) : (asm16 lo hi).getLsbD 15 = hi.getLsbD 7 := by
  rw [asm16_eq_append, BitVec.getLsbD_append, if_neg (by decide)]

theorem sample_eq (lo hi : Byte) :
    sample lo hi = (hi.toNat * 256 + lo.toNat : Int) - if hi.getLsbD 7 then 65536 else 0 := by
  rw [sample, signed16_eq_sub, asm16_getLsbD_15, asm16_toNat, Nat.cast_add, Nat.cast_mul, Nat.cast_ofNat]

/-- Every pattern is that of its own two bytes. -/
theorem asm16_extractLsb' (v : Half) : asm16 (v.extractLsb' 0 8) (v.extractLsb' 8 8) = v := by
  rw [asm16_eq_append]
  exact BitVec.extractLsb'_append_extractLsb'

/-- The two bytes can be read back from their pattern. -/
theorem extractLsb'_asm16 (lo hi : Byte) :
    lo = (asm16 lo hi).extractLsb' 0 8 ∧ hi = (asm16 lo hi).extractLsb' 8 8 := by
  rw [asm16_eq_append]
  exact ⟨BitVec.extractLsb'_append_eq_right.symm, BitVec.extractLsb'_append_eq_left.symm⟩

/-- Settles O29: taking a pattern's low and high byte is the inverse of `asm16`, on either side. -/
theorem reassemblyIsABijection : Obligations.ReassemblyIsABijection := by
  refine ⟨fun lo hi => ⟨asm16_eq_append lo hi, sample_eq lo hi⟩, fun v => ⟨_, _, asm16_extractLsb' v, ?_⟩⟩
  rintro lo hi rfl
  exact extractLsb'_asm16 lo hi

/-- Settles O28: ASM16's rule answers at once, with the pattern as a number. -/
theorem asm16Result : Obligations.Asm16Result := by
  intro s lo hi
  rw [exec_eq_run, State.run_answer rfl, asm16_eq_ofNat, State.respond]

/-! ### RDAXIS (R160, R163) -/

theorem ruleOf_rdaxis_of_unknown {axis : Nat} (h : 3 ≤ axis) (p : Params) :
    ruleOf (.rdaxis true axis) p = .answer (.deviceError .unknownAxis) := by
  simp [ruleOf, ruleRdaxis, axisAddr_unknown h]

/-- The three selectors' base addresses (R160). -/
theorem axisAddr_eq_some {p : Params} {axis : Nat} {a : Byte}
    (h : axis = 0 ∧ a = p.xL ∨ axis = 1 ∧ a = p.yL ∨ axis = 2 ∧ a = p.zL) : axisAddr p axis = some a := by
  rcases h with ⟨rfl, rfl⟩ | ⟨rfl, rfl⟩ | ⟨rfl, rfl⟩ <;> rfl

/-- Settles O30: the destination, the selector and the draw decide, in this order. -/
theorem rdaxisOutcomes : Obligations.RdaxisOutcomes := by
  intro s axis a lo hi
  refine ⟨?_, fun hunknown => ?_, fun haxis => ?_⟩
  · rw [exec_eq_run, State.run_answer rfl, State.respond]
  · rw [exec_eq_run, State.run_answer (ruleOf_rdaxis_of_unknown hunknown s.params), State.respond]
  · have hrule := ruleOf_rdaxis (axisAddr_eq_some haxis)
    refine ⟨fun hfail => ?_, fun hok => ?_⟩
    · rw [exec_eq_run, State.run_readFails hrule hfail]
    · rw [exec_eq_run, State.run_reads hrule hok, State.bytesAt_two, byteAt_zero, byteAt_one, State.complete_answer,
        asm16_eq_ofNat]

end Sys2Proof.Machine
end

section
/-! PROOFS. How an operation ends (`60_exceptions.md`): one response with one of three status codes (R170), no write
before a DeviceError (R177), and the same ending when another instance runs it phase by phase (R183, R212). -/

namespace Sys2Proof.Machine

/-! ### One response (R170) -/

theorem Response.port_status_cases (r : Response) : r.port.1 = 0 ∨ r.port.1 = 1 ∨ r.port.1 = 2 := by
  cases r with
  | ok => exact .inl rfl
  | deviceError => exact .inr (.inl rfl)
  | busError => exact .inr (.inr rfl)

@[simp] theorem State.complete_requests (s : State) (x : AfterRead) : (s.complete x).requests = s.requests := by
  cases x with
  | answer => rfl
  | write a b => simp [State.complete_write]

/-- No operation accepts or withdraws a request while it runs (R61). -/
@[simp] theorem State.run_requests (s : State) (rule : Params → Rule) : (s.run rule).requests = s.requests := by
  rcases s.run_cases rule with ⟨r, -, he⟩ | ⟨a, n, next, -, ⟨-, he⟩ | ⟨-, he⟩⟩ <;> simp [he]

/-- Settles O39: a run adds one response and keeps the requests and the parameters. -/
theorem everyOperationGivesOneResponse : Obligations.EveryOperationGivesOneResponse := by
  intro i s
  obtain ⟨r, hr⟩ := s.run_responses (ruleOf i)
  exact ⟨_, r, exec_eq_run i s, hr, r.port_status_cases, s.run_requests _, s.run_params _⟩

/-! ### DeviceError (R177) -/

theorem writeResponse_ne_deviceError (success : Bool) (c : DeviceCause) : writeResponse success ≠ .deviceError c := by
  cases success <;> exact nofun

/-- Settles O41, by the ways an operation can run: a failed read ends in BusError and a write never in DeviceError, so
the operation has answered at once or from the bytes it read. -/
theorem noWriteOnDeviceError : Obligations.NoWriteOnDeviceError := by
  intro i s t c ht hlast
  obtain rfl := Host.Outcome.next.inj ((exec_eq_run i s).symm.trans ht)
  rcases s.run_cases (ruleOf i) with ⟨r, -, he⟩ | ⟨a, n, next, -, ⟨-, he⟩ | ⟨-, he⟩⟩ <;> rw [he] at hlast ⊢
  · exact .inl ⟨rfl, rfl⟩
  · cases (State.respond_lastResponse ..).symm.trans hlast
  · cases hx : next (s.othersAct.bytesAt a n) with
    | answer r => exact .inr ⟨rfl, a, n, s.othersAct.bytesAt a n, by simp [State.complete_answer]⟩
    | write b d =>
      rw [hx, State.complete_write, State.respond_lastResponse] at hlast
      exact absurd (Option.some.inj hlast) (writeResponse_ne_deviceError _ c)

/-! ### The phases of another instance (R212) -/

/-- `x` in the middle of operation `i`, holding the bytes `r` (R23). -/
def Rival.latch (x : Rival) (i : Instr) (r : List Byte) : Rival := { x with phase := .latched i r }

section Phases

variable {s : State} {k : Nat} {x : Rival} {i : Instr} {t : Transport}

/-- An idle instance with no request to accept has no next phase. -/
theorem State.turn_of_no_request (hk : s.others[k]? = some x) (hp : x.phase = .idle) (hr : x.requests = []) :
    s.turn k t = s := by
  simp [State.turn, hk, hp, hr]

/-- An idle instance accepts its next request. -/
theorem State.turn_of_request {w : Request} {l : List Request} (hk : s.others[k]? = some x) (hp : x.phase = .idle)
    (hr : x.requests = w :: l) (hd : decode w = .ok i) : s.turn k t = s.rivalBegin k x.popRequest i t := by
  simp [State.turn, hk, hp, hr, hd]

/-- An instance with latched bytes goes on from them. -/
theorem State.turn_of_latched {r : List Byte} (hk : s.others[k]? = some x) (hp : x.phase = .latched i r) :
    s.turn k t = s.rivalFinish k x i r t := by
  simp [State.turn, hk, hp]

theorem State.rivalBegin_answer {r : Response} (h : ruleOf i s.params = .answer r) :
    s.rivalBegin k x i t = s.setRival k (x.respond r) := by
  simp [State.rivalBegin, h]

theorem State.rivalBegin_readFails {a : Byte} {n : Nat} {next : List Byte → AfterRead}
    (h : ruleOf i s.params = .read a n next) (ht : t.ok = false) :
    s.rivalBegin k x i t = (s.record (.other k) (.read a n none)).setRival k (x.respond (.busError .readFailed)) := by
  simp [State.rivalBegin, h, State.memRead_eq, State.readResult_fail ht]

theorem State.rivalBegin_reads {a : Byte} {n : Nat} {next : List Byte → AfterRead}
    (h : ruleOf i s.params = .read a n next) (ht : t.ok = true) :
    s.rivalBegin k x i t = (s.record (.other k) (.read a n (some (s.bytesAt a n)))).setRival k
      (x.latch i (s.bytesAt a n)) := by
  simp [State.rivalBegin, h, State.memRead_eq, State.readResult_ok ht, Rival.latch]

theorem State.setRival_getElem? (h : k < s.others.length) (x : Rival) : (s.setRival k x).others[k]? = some x := by
  simp [h]

/-- An instance that has answered its last request has no next phase. -/
theorem State.turn_setRival_respond (h : k < s.others.length) (hx : x.requests = []) (r : Response) :
    (s.setRival k (x.respond r)).turn k t = s.setRival k (x.respond r) :=
  State.turn_of_no_request (State.setRival_getElem? h _) rfl hx

/-- An instance that latched its bytes ends its operation in its next phase. -/
theorem State.turn_setRival_latch (hk : k < s.others.length) {a : Byte} {n : Nat} {next : List Byte → AfterRead}
    (h : ruleOf i s.params = .read a n next) (r : List Byte) :
    (s.setRival k (x.latch i r)).turn k t =
      ((s.setRival k (x.latch i r)).finish (.other k) (next r) t).1.setRival k
        (x.respond ((s.setRival k (x.latch i r)).finish (.other k) (next r) t).2) := by
  rw [State.turn_of_latched (State.setRival_getElem? hk _) rfl, State.rivalFinish, State.setRival_params, h,
    Rule.afterRead]
  rfl

end Phases

@[simp] theorem State.finish_others (s : State) (who : Master) (x : AfterRead) (t : Transport) :
    (s.finish who x t).1.others = s.others := by
  cases x <;> simp [State.finish]

/-- With nobody acting meanwhile, the instance under study ends an operation as any master does that finds the device
the same and draws the same outcome. -/
theorem State.complete_eq_finish {s v : State} {t : Transport} (hd : s.nextDraw = ⟨[], t⟩) (hv : v.dev = s.dev)
    (who : Master) (x : AfterRead) :
    (s.complete x).dev = (v.finish who x t).1.dev ∧ (s.complete x).responses = s.responses ++ [(v.finish who x t).2] := by
  have hnone : s.othersAct = s.takeDraw := State.othersAct_of_none (by rw [hd])
  cases x with
  | answer r => exact ⟨hv.symm, rfl⟩
  | write a b => simp [State.complete_write, State.finish, State.nextTransport, hnone, hd, hv]

/-- `s` with nobody acting before the next two bus calls, whose outcomes are `t1` and `t2`. -/
def State.quiet (s : State) (t1 t2 : Transport) : State := { s with draws := [⟨[], t1⟩, ⟨[], t2⟩] }

theorem State.quiet_othersAct (s : State) (t1 t2 : Transport) : (s.quiet t1 t2).othersAct = (s.quiet t1 t2).takeDraw :=
  State.othersAct_of_none rfl

/-- The ways an operation can run with nobody acting before its read, whose outcome is `t1`. -/
theorem State.quiet_run_cases (s : State) (t1 t2 : Transport) (rule : Params → Rule) :
    (∃ r, rule s.params = .answer r ∧ (s.quiet t1 t2).run rule = (s.quiet t1 t2).respond r) ∨
    ∃ a n next, rule s.params = .read a n next ∧
      ((t1.ok = false ∧ (s.quiet t1 t2).run rule =
          ((s.quiet t1 t2).takeDraw.record .self (.read a n none)).respond (.busError .readFailed)) ∨
        (t1.ok = true ∧ (s.quiet t1 t2).run rule =
          ((s.quiet t1 t2).takeDraw.record .self (.read a n (some (s.bytesAt a n)))).complete
            (next (s.bytesAt a n)))) := by
  have h := (s.quiet t1 t2).run_cases rule
  rw [State.quiet_othersAct] at h
  exact h

/-- The two phases of instance `k`, which was `x`, end as the whole operation does, by the ways that can run. -/
theorem State.turn_turn_eq_run {s : State} {k : Nat} {x : Rival} {w : Request} {i : Instr} (t1 t2 : Transport)
    (hk : s.others[k]? = some x) (hp : x.phase = .idle) (hr : x.requests = [w]) (hw : decode w = .ok i) :
    ∃ (v : State) (r : Response), (s.turn k t1).turn k t2 = v.setRival k (x.popRequest.respond r) ∧
      k < v.others.length ∧ v.dev = ((s.quiet t1 t2).run (ruleOf i)).dev ∧
      ((s.quiet t1 t2).run (ruleOf i)).responses = s.responses ++ [r] := by
  have hlen : k < s.others.length := (List.getElem?_eq_some_iff.1 hk).1
  have hlen' (c : BusCall) : k < (s.record (.other k) c).others.length := hlen
  have hpop : x.popRequest.requests = [] := by rw [Rival.popRequest_requests, hr, List.tail_cons]
  rw [State.turn_of_request hk hp hr hw]
  rcases s.quiet_run_cases t1 t2 (ruleOf i) with ⟨r, hrule, he⟩ | ⟨a, n, next, hrule, ⟨hread, he⟩ | ⟨hread, he⟩⟩
  · rw [State.rivalBegin_answer hrule, State.turn_setRival_respond hlen hpop, he]
    exact ⟨s, r, rfl, hlen, rfl, rfl⟩
  · rw [State.rivalBegin_readFails hrule hread, State.turn_setRival_respond (hlen' _) hpop, he]
    exact ⟨s.record _ _, _, rfl, hlen, rfl, rfl⟩
  · rw [State.rivalBegin_reads hrule hread, State.turn_setRival_latch (hlen' _) hrule, he]
    obtain ⟨hdev, hresp⟩ := State.complete_eq_finish (t := t2)
      (s := (s.quiet t1 t2).takeDraw.record .self (.read a n (some (s.bytesAt a n))))
      (v := (s.record (.other k) (.read a n (some (s.bytesAt a n)))).setRival k
        (x.popRequest.latch i (s.bytesAt a n))) rfl rfl (.other k) (next (s.bytesAt a n))
    exact ⟨_, _, rfl, by simpa using hlen, hdev.symm, hresp⟩

/-- Settles O49: the two phases end with what the whole run leaves and answers. -/
theorem phasesAgreeWithTheWholeOperation : Obligations.PhasesAgreeWithTheWholeOperation := by
  intro s u k x w i t1 t2 hk hp hr hw hu
  obtain rfl := Host.Outcome.next.inj ((exec_eq_run i (s.quiet t1 t2)).symm.trans hu)
  obtain ⟨v, r, he, hlen, hdev, hresp⟩ := State.turn_turn_eq_run t1 t2 hk hp hr hw
  refine ⟨x.popRequest.respond r, r, ?_, hresp, ?_, ?_⟩
  · rw [he, State.setRival_dev, hdev]
  · rw [he, State.setRival_getElem? hlen]
  · simp [Rival.respond, Rival.popRequest, hr]

end Sys2Proof.Machine
end

section
/-! PROOFS. Reset and hazards (`70_reset_and_hazards.md`): every instance is idle at reset (R200); in a closed system
with one instance an operation leaves a control register's old byte or the one computed from it, so control-1 only grows
(R204), GETODR reports the merged byte (R210) and a retry converges (R206); in an open one updates get lost (R205). -/

namespace Sys2Proof.Machine

/-! ### Reset (R200) -/

/-- Settles O1: reset gives each of the free request lists an idle instance that has not responded. -/
theorem resetLeavesEveryInstanceIdle : Obligations.ResetLeavesEveryInstanceIdle := by
  refine ⟨rfl, rfl, fun x hx => ?_⟩
  obtain ⟨rs, -, rfl⟩ := List.mem_map.1 hx
  exact ⟨rfl, rfl⟩

/-! ### A closed system stays closed -/

theorem State.alone_complete {s : State} (h : s.alone) (x : AfterRead) : (s.complete x).alone := by
  cases x with
  | answer r => exact h
  | write a b =>
    obtain ⟨-, hothers⟩ := State.alone_othersAct h
    exact ⟨by rw [State.complete_params, h.1], by simp [State.complete_write, hothers]⟩

theorem State.alone_run {s : State} (h : s.alone) (rule : Params → Rule) : (s.run rule).alone := by
  have hs : s.othersAct.alone := State.alone_othersAct h
  rcases s.run_cases rule with ⟨r, -, he⟩ | ⟨a, n, next, -, ⟨-, he⟩ | ⟨-, he⟩⟩ <;> rw [he]
  · exact h
  · exact hs
  · exact State.alone_complete (s := s.othersAct.record _ _) hs _

/-! ### What an operation leaves in a control register nobody else writes -/

/-- An operation that writes a register has read one byte of it. -/
theorem ruleOf_read_count {i : Instr} {p : Params} {a c b : Byte} {n : Nat} {next : List Byte → AfterRead}
    {r : List Byte} (h : ruleOf i p = .read a n next) (hw : next r = .write c b) : n = 1 := by
  have hafter : (ruleOf i p).afterRead r = .write c b := by rw [h, Rule.afterRead, hw]
  rcases ruleOf_write_cases hafter with ⟨rate, e, rfl, -, -, -⟩ | ⟨enable, rfl, h1, -, -⟩
  · cases h
    rfl
  · rw [ruleOf_intpin_valid h1] at h
    cases h
    rfl

theorem State.Guards.complete_read_or_write {s : State} {c : Byte} (h : s.Guards c) (x : AfterRead) :
    (s.complete x).dev.read c = s.dev.read c ∨ x = .write c ((s.complete x).dev.read c) := by
  cases x with
  | answer r => exact .inl rfl
  | write a b =>
    by_cases hc : c = a
    · subst hc
      rw [State.complete_write, State.respond_dev, State.memWrite_read_same, h.othersAct_read]
      split
      · exact .inr rfl
      · exact .inl rfl
    · exact .inl (h.complete_read hc)

/-- An operation leaves the old byte of a guarded register, or the byte its rule computes from that one. -/
theorem State.Guards.run_read_or_write {s : State} {c : Byte} (h : s.Guards c) (i : Instr) :
    (s.run (ruleOf i)).dev.read c = s.dev.read c ∨
      (ruleOf i s.params).afterRead [s.dev.read c] = .write c ((s.run (ruleOf i)).dev.read c) := by
  have hread := h.othersAct_read
  rcases s.run_cases (ruleOf i) with ⟨r, -, he⟩ | ⟨a, n, next, hr, ⟨-, he⟩ | ⟨-, he⟩⟩
  · exact .inl (by rw [he, State.respond_dev])
  · exact .inl (by rw [he, State.respond_dev, State.record_dev, hread])
  · have hm := h.othersAct.record .self (.read a n (some (s.othersAct.bytesAt a n)))
    have hend := hm.complete_read_or_write (next (s.othersAct.bytesAt a n))
    rw [← he, State.record_dev, hread] at hend
    rcases hend with hkeep | hwrite
    · exact .inl hkeep
    · obtain rfl := ruleOf_write_address hr hwrite
      obtain rfl := ruleOf_read_count hr hwrite
      rw [State.bytesAt_one, hread] at hwrite
      exact .inr (by rw [hr, Rule.afterRead, hwrite])

theorem State.Guards.ctrl1_of_alone {s : State} (hp : s.params.ok) (halone : s.alone) : s.Guards s.params.ctrl1 :=
  .of_alone hp halone (by simp [Params.controlAddrs])

/-- SETODR either leaves control-1 as it was or ORs the rate's encoding into it; the others leave it. -/
theorem State.run_ctrl1_of_alone {s : State} (hp : s.params.ok) (halone : s.alone) (i : Instr) :
    (s.run (ruleOf i)).dev.read s.params.ctrl1 = s.dev.read s.params.ctrl1 ∨
      ∃ rate e, i = .setodr rate ∧ odrEncode rate = some e ∧
        (s.run (ruleOf i)).dev.read s.params.ctrl1 = s.dev.read s.params.ctrl1 ||| e := by
  have hg := State.Guards.ctrl1_of_alone hp halone
  refine (hg.run_read_or_write i).imp_right fun hw => ?_
  rcases ruleOf_write_cases hw with ⟨rate, e, hi, he, -, hb⟩ | ⟨-, -, -, ha, -⟩
  · exact ⟨rate, e, hi, he, hb⟩
  · exact absurd ha (Params.controlAddrs_distinct hp).2.1

/-- INTPIN either leaves interrupt-config as it was or makes its operand bit 0 of it. -/
theorem State.run_intCfg_of_alone {s : State} (hp : s.params.ok) (halone : s.alone) (enable : Nat) :
    (s.run (ruleOf (.intpin enable))).dev.read s.params.intCfg = s.dev.read s.params.intCfg ∨
      (s.run (ruleOf (.intpin enable))).dev.read s.params.intCfg =
        intPinByte enable (s.dev.read s.params.intCfg) := by
  have hg : s.Guards s.params.intCfg := .of_alone hp halone (by simp [Params.controlAddrs])
  refine (hg.run_read_or_write _).imp_right fun hw => ?_
  rcases ruleOf_write_cases hw with ⟨rate, e, hi, -⟩ | ⟨n, hi, -, -, hb⟩ <;> cases hi
  exact hb

/-! ### Control-1 only grows (R204, R142) -/

/-- A step of a closed system with no rivals keeps it closed and ORs some byte, with bits 7 and 0 clear, into control-1:
an encoding where a SETODR's write lands, and 0 otherwise. -/
theorem step_ors_ctrl1 {s t : State} (hp : s.params.ok) (halone : s.alone) (ht : step s = .next t) :
    t.alone ∧ ∃ e : Byte, e &&& 0x81 = 0 ∧ t.dev.read s.params.ctrl1 = s.dev.read s.params.ctrl1 ||| e := by
  have hg := State.Guards.ctrl1_of_alone hp halone
  have hkept {b : Byte} (hb : b = s.dev.read s.params.ctrl1) :
      ∃ e : Byte, e &&& 0x81 = 0 ∧ b = s.dev.read s.params.ctrl1 ||| e :=
    ⟨0, by decide, hb.trans BitVec.or_zero.symm⟩
  rcases step_cases s with ⟨-, he⟩ | ⟨w, l, r, -, -, he⟩ | ⟨w, l, i, -, -, he⟩ <;>
    obtain rfl := Host.Outcome.next.inj (he.symm.trans ht)
  · exact ⟨State.alone_othersAct halone, hkept hg.othersAct_read⟩
  · exact ⟨halone, hkept rfl⟩
  · refine ⟨State.alone_run (s := s.popRequest) halone _, ?_⟩
    rcases s.popRequest.run_ctrl1_of_alone hp halone i with hold | ⟨rate, e, -, henc, hnew⟩
    · exact hkept hold
    · exact ⟨e, odrEncode_and_outer_bits henc, hnew⟩

/-- OR-ing a byte in clears no bit that was set. -/
theorem or_and_cancel_right (b e : Byte) : (b ||| e) &&& b = b := by
  ext i
  simp +contextual

/-- Settles O48: OR-ing a byte in keeps what was set, and bits 7 and 0 where it has none. -/
theorem rateBitsOnlyGrow : Obligations.RateBitsOnlyGrow := by
  intro s t ⟨hp, _⟩ halone ht
  obtain ⟨htalone, e, he, hread⟩ := step_ors_ctrl1 hp halone ht
  refine ⟨htalone, ?_, ?_⟩ <;> rw [hread]
  · exact or_and_cancel_right ..
  · rw [BitVec.and_or_distrib_right, he]
    exact BitVec.or_zero

/-! ### GETODR after SETODR (R210) -/

/-- In a closed system with no rivals an Ok SETODR leaves control-1 with the encoding OR-ed into it, and the system as
closed as it was. -/
theorem exec_setodr_ok_of_alone {s t : State} {rate : Nat} {e : Byte} (hp : s.params.ok) (halone : s.alone)
    (henc : odrEncode rate = some e) (ht : exec (.setodr rate) s = .next t) (hlast : t.lastResponse = some (.ok none)) :
    t.dev.read s.params.ctrl1 = s.dev.read s.params.ctrl1 ||| e ∧ t.params = s.params ∧ t.alone := by
  have hg := State.Guards.ctrl1_of_alone hp halone
  have hrun := Host.Outcome.next.inj ((exec_eq_run _ s).symm.trans ht)
  obtain ⟨e', old, m, henc', hold, -, rfl⟩ := exec_setodr_ok_inv ht hlast
  obtain rfl : e = e' := Option.some.inj (henc.symm.trans henc')
  obtain rfl : s.dev.read s.params.ctrl1 = old := hg.othersAct_read.symm.trans hold
  refine ⟨Memory.read_write_same .., ?_, ?_⟩ <;> rw [← hrun]
  · exact State.run_params ..
  · exact State.alone_run halone _

/-- An Ok GETODR reports the rate that the byte it read decodes to. -/
theorem exec_getodr_ok_inv {s t : State} {d : Option Half} (ht : exec (.getodr true) s = .next t)
    (hlast : t.lastResponse = some (.ok d)) :
    d = (odrDecode (s.othersAct.dev.read s.params.ctrl1)).map (BitVec.ofNat 16) := by
  obtain ⟨-, hfails, hreads⟩ := getodrOutcomes s
  cases hread : s.nextTransport.ok with
  | false =>
    obtain rfl := Host.Outcome.next.inj ((hfails hread).symm.trans ht)
    cases (State.respond_lastResponse ..).symm.trans hlast
  | true =>
    obtain rfl := Host.Outcome.next.inj ((hreads hread).symm.trans ht)
    cases (State.respond_lastResponse ..).symm.trans hlast
    rw [odrDecode_eq, Option.map_some]

/-- Settles O23: GETODR reads the byte SETODR left, since nobody else writes control-1. -/
theorem getodrAfterSetodrReportsTheMergedByte : Obligations.GetodrAfterSetodrReportsTheMergedByte := by
  intro s t u rate e d ⟨hp, _⟩ halone henc ht htlast hu hulast
  obtain ⟨hmerged, hparams, htalone⟩ := exec_setodr_ok_of_alone hp halone henc ht htlast
  have hg := State.Guards.ctrl1_of_alone (hparams ▸ hp) htalone
  rw [exec_getodr_ok_inv hu hulast, hg.othersAct_read, hparams, hmerged]

/-! ### A retry after a failed write (R206) -/

/-- Making the operand bit 0 a second time changes nothing. -/
theorem intPinByte_intPinByte (enable : Nat) (old : Byte) :
    intPinByte enable (intPinByte enable old) = intPinByte enable old := by
  unfold intPinByte
  split
  · rw [BitVec.or_assoc, BitVec.or_self]
  · rw [BitVec.and_assoc, BitVec.and_self]

/-- Doing an idempotent change again, after it was made or not, is doing it once. -/
theorem retry_eq {f : Byte → Byte} (hf : ∀ b, f (f b) = f b) {old mid : Byte} (h : mid = old ∨ mid = f old) :
    f mid = f old := by
  rcases h with rfl | rfl
  · rfl
  · exact hf old

/-- Settles O43: both operations change their register idempotently, so the retry does not depend on whether the first
attempt's write landed. -/
theorem retryAfterFailedWriteConverges : Obligations.RetryAfterFailedWriteConverges := by
  intro s t u ⟨hp, _⟩ halone _ hulast
  refine ⟨fun rate e henc ht hu => ?_, fun enable ht hu => ?_⟩ <;>
    obtain rfl := Host.Outcome.next.inj ((exec_eq_run _ s).symm.trans ht)
  · have hfirst : (s.run (ruleOf (.setodr rate))).dev.read s.params.ctrl1 = s.dev.read s.params.ctrl1 ∨
        (s.run (ruleOf (.setodr rate))).dev.read s.params.ctrl1 = s.dev.read s.params.ctrl1 ||| e :=
      (State.run_ctrl1_of_alone hp halone _).imp_right fun ⟨n, e', hi, henc', h⟩ => by
        cases hi
        cases henc.symm.trans henc'
        exact h
    obtain ⟨hretry, -, -⟩ := exec_setodr_ok_of_alone (by simpa using hp) (State.alone_run halone _) henc hu hulast
    rw [State.run_params] at hretry
    have hor (b : Byte) : b ||| e ||| e = b ||| e := by rw [BitVec.or_assoc, BitVec.or_self]
    exact ⟨hfirst, hretry.trans (retry_eq (f := (· ||| e)) hor hfirst)⟩
  · have hfirst := State.run_intCfg_of_alone hp halone enable
    obtain ⟨hretry, -, -⟩ := exec_intpin_ok_of_alone (by simpa using hp) (State.alone_run halone _) hu hulast
    rw [State.run_params] at hretry
    exact ⟨hfirst, hretry.trans (retry_eq (intPinByte_intPinByte enable) hfirst)⟩

/-! ### A lost update (R205) -/

/-- Whatever the others do between the read and the write, an operation whose two bus calls succeed ends Ok and leaves
the byte it computed from the one it read. -/
theorem State.run_of_reads_and_writes {s : State} {i : Instr} {a b : Byte} {next : List Byte → AfterRead}
    {t1 t2 : Transport} {between : List Action} {l : List Draw} (hr : ruleOf i s.params = .read a 1 next)
    (hw : next [s.dev.read a] = .write a b) (hd : s.draws = ⟨[], t1⟩ :: ⟨between, t2⟩ :: l) (h1 : t1.ok = true)
    (h2 : t2.ok = true) :
    (s.run (ruleOf i)).lastResponse = some (.ok none) ∧ (s.run (ruleOf i)).dev.read a = b := by
  have hquiet : s.othersAct = s.takeDraw := State.othersAct_of_none (by rw [State.nextDraw_cons hd])
  have hread : s.nextTransport.ok = true := by rw [State.nextTransport_cons hd, h1]
  rw [State.run_reads hr hread, hquiet, State.bytesAt_one, State.takeDraw_dev, hw, State.complete_writeSucceeds]
  · exact ⟨State.respond_lastResponse .., Memory.read_write_same ..⟩
  · rw [State.nextTransport_cons (d := ⟨between, t2⟩) (l := l) (by simp [hd]), h2]

/-- Settles O44: the operation's write comes last, with the byte computed before the other master's. -/
theorem writeBetweenReadAndWriteIsLost : Obligations.WriteBetweenReadAndWriteIsLost := by
  intro s x t1 t2 l _ h1 h2
  refine ⟨fun rate e henc hd => ⟨_, exec_eq_run .., ?_⟩, fun enable hen hd => ⟨_, exec_eq_run .., ?_⟩⟩
  · exact State.run_of_reads_and_writes rfl (setodr_afterRead_defined henc s.params _) hd h1 h2
  · exact State.run_of_reads_and_writes (ruleOf_intpin_valid hen s.params) rfl hd h1 h2

/-! ### Two instances without a mutex (program P6) -/

/-- P6 with two instances: the one under study is asked for SETODR 4, the other for SETODR 8. -/
def p6 (draws : List Draw) : State where
  params := Config.someParams
  dev := []
  requests := [0x90040000]
  responses := []
  log := []
  others := [{ requests := [0x90080000], phase := .idle, responses := [] }]
  draws := draws
  drawn := 0

/-- Where P6 ends: after the operation, and what the other instance does after it. -/
def p6End (draws : List Draw) : State := ((p6 draws).popRequest.run (ruleOf (.setodr 4))).idle

/-- The other instance goes through `n` phases before a bus call; every call succeeds. -/
def p6Draw (n : Nat) : Draw := ⟨List.replicate n (.turn 0 ⟨true, false⟩), ⟨true, false⟩⟩

theorem p6_sound (draws : List Draw) : (p6 draws).sound := by
  change (p6 []).sound
  unfold State.sound
  decide

theorem p6_run (draws : List Draw) : Host.Core.run core 2 (p6 draws) = .next (p6End draws) := by
  have hfirst : core.step (p6 draws) = .next ((p6 draws).popRequest.run (ruleOf (.setodr 4))) :=
    step_exec (s := p6 draws) (w := 0x90040000) rfl rfl
  have hsecond : core.step ((p6 draws).popRequest.run (ruleOf (.setodr 4))) = .next (p6End draws) :=
    step_idle (State.run_requests ..)
  simp only [Host.Core.run, hfirst, hsecond]

/-- The other instance runs after this one, or writes after this one's write from the byte it read before it, or does
both between this one's read and write. -/
theorem p6End_reaches : ∀ v ∈ ([0x72, 0x62, 0x10] : List Byte), ∃ draws : List Draw,
    (p6End draws).dev.read Config.someParams.ctrl1 = v ∧ (p6End draws).responses = [.ok none] ∧
      (p6End draws).others = [{ requests := [], phase := .idle, responses := [.ok none] }] := by
  simp only [List.forall_mem_cons]
  refine ⟨⟨[p6Draw 0, p6Draw 0, p6Draw 2], ?_⟩, ⟨[p6Draw 0, p6Draw 1, p6Draw 1], ?_⟩,
    ⟨[p6Draw 0, p6Draw 2, p6Draw 0], ?_⟩, List.forall_mem_nil _⟩ <;> decide

/-- Settles O45: two steps of P6 end in each of the three values. -/
theorem twoInstancesCanLoseAnUpdate : Obligations.TwoInstancesCanLoseAnUpdate := by
  intro v hv
  obtain ⟨draws, hend⟩ := p6End_reaches v hv
  exact ⟨p6 draws, p6End draws, p6_sound draws, rfl, rfl, rfl, rfl, p6_run draws, hend⟩

end Sys2Proof.Machine
end
